-- ==== Sys2Proof/Word.lean ====
section
/-! DEFINITION. The unsigned quantities of the Light-DES core and their widths (00_scope.md R9, R11, R13).
Every quantity of the spec is unsigned (R13); nothing here is ever sign-extended. -/

namespace Sys2Proof

/-- An 8-bit byte (R9). -/
abbrev Byte := BitVec 8
/-- A half-block: 6 bits, the left or right half of a block (R9, R17). -/
abbrev Half := BitVec 6
/-- A block: 12 bits, `(left half << 6) | right half` (R9, R17). -/
abbrev Block := BitVec 12
/-- An 8-bit round subkey (R9). -/
abbrev Subkey := BitVec 8
/-- The 32-bit data word of the host bus (R11, R60). -/
abbrev Word := BitVec 32
/-- A 16-bit byte address of the host bus (R11, R60). -/
abbrev Addr := BitVec 16

end Sys2Proof
end

