-- ==== Sys2Proof/Syntax.lean ====
section
/-! DEFINITION. The two formats of 30_encoding.md R80: the command word (its twelve commands, one constructor per row
of spec/opcode_table.json) and the host transaction; the host assembly notation of R88 and R89; the command error
codes of 60_exceptions.md R201. -/

namespace Sys2Proof

/-- The commands of the core (30_encoding.md R83). No command has an operand field: all operands come from registers
and from IN (R85), so no constructor has an argument. -/
inductive Instr where
  /-- 0x0, data: ECB encryption (43_mode_engine.md R173). -/
  | ecbEnc
  /-- 0x1, data: ECB decryption (R174). -/
  | ecbDec
  /-- 0x2, data: CBC encryption (R175). -/
  | cbcEnc
  /-- 0x3, data: CBC decryption (R176). -/
  | cbcDec
  /-- 0x4, data: CTR encryption (R177). -/
  | ctrEnc
  /-- 0x5, data: CTR decryption (R178). -/
  | ctrDec
  /-- 0x8, diagnostic: the expansion E (40_round_function.md R108). -/
  | expand
  /-- 0x9, diagnostic: both S-boxes (R109). -/
  | sbox
  /-- 0xA, diagnostic: the round function f (R110). -/
  | fEval
  /-- 0xB, diagnostic: the key schedule (41_key_schedule.md R131). -/
  | ksEval
  /-- 0xC, diagnostic: one block encrypted (43_mode_engine.md R181). -/
  | blkEnc
  /-- 0xD, diagnostic: one block decrypted (R182). -/
  | blkDec
  deriving DecidableEq, Repr

/-- The command errors of 60_exceptions.md R201, less NONE. -/
inductive CmdError where
  /-- Reserved OP or nonzero CMD[31:4] (R202). -/
  | badCmd
  /-- Data command with LEN > BUF_BYTES (R203). -/
  | lenRange
  /-- Data command with LEN mod 3 ≠ 0 (R204). -/
  | lenAlign
  deriving DecidableEq, Repr

/-- A host transaction, one access on the host bus (R80). The width in bits is carried because an access that is not
32 bits wide exists and is refused (20_memory.md R62). -/
inductive Access where
  | read (addr : Addr) (width : Nat)
  | write (addr : Addr) (width : Nat) (data : Word)
  deriving DecidableEq, Repr

/-- What comes to the core from outside, one item a step. `engine` gives the engine its turn: where it stands among
the host's accesses is the time LAT of a command (70_reset_and_hazards.md R240). notes/assumptions/3.md. -/
inductive Input where
  /-- One host access. -/
  | access (a : Access)
  /-- A host write of the value the host last read: the second half of the pseudo-instruction `copy` (R89). -/
  | writeRead (addr : Addr)
  /-- The reset input is asserted (`true`) or released (`false`) (70_reset_and_hazards.md R230). -/
  | reset (asserted : Bool)
  /-- The engine's turn: a running command completes (43_mode_engine.md R162). -/
  | engine
  deriving DecidableEq, Repr

end Sys2Proof
end

