-- ==== Sys2Proof/WellFormed.lean ====
section
/-! DEFINITION. Which command words and which host transactions are well formed (30_encoding.md R80, R81, R84,
20_memory.md R62). The commands themselves carry no field, so every term of `Instr` is well formed. -/

namespace Sys2Proof

/-- A command has no operand field (30_encoding.md R81, R85): nothing about it can be ill formed. -/
def Instr.wellFormed : Instr → Bool
  | .ecbEnc | .ecbDec | .cbcEnc | .cbcDec | .ctrEnc | .ctrDec => true
  | .expand | .sbox | .fEval | .ksEval | .blkEnc | .blkDec => true

/-- A legal command word: reserved bits 0 and an OP that is not reserved (30_encoding.md R84). -/
def commandWordWellFormed (w : Word) : Bool :=
  w.extractLsb' 4 28 == 0#28 && !([0x6#4, 0x7#4, 0xE#4, 0xF#4].contains (w.extractLsb' 0 4))

/-- The address of an access. -/
def Access.addr : Access → Addr
  | .read a _ => a
  | .write a _ _ => a

/-- The width of an access in bits. -/
def Access.width : Access → Nat
  | .read _ n => n
  | .write _ n _ => n

/-- A host access is 32 bits wide at an address that is a multiple of 4 (20_memory.md R62). -/
def Access.wellFormed (a : Access) : Bool := a.width == 32 && a.addr.toNat % 4 == 0

end Sys2Proof
end

