-- ==== Sys2Proof/Decode.lean ====
section
/-! DEFINITION. Decoding a command word (30_encoding.md R81–R84, R87) and, after it, encoding a command. -/

namespace Sys2Proof

/-- The OP map read from OP to command: `none` at the four reserved values (30_encoding.md R83). -/
def Instr.ofOpcode (op : BitVec 4) : Option Instr :=
  match op with
  | 0x0#4 => some .ecbEnc
  | 0x1#4 => some .ecbDec
  | 0x2#4 => some .cbcEnc
  | 0x3#4 => some .cbcDec
  | 0x4#4 => some .ctrEnc
  | 0x5#4 => some .ctrDec
  | 0x8#4 => some .expand
  | 0x9#4 => some .sbox
  | 0xA#4 => some .fEval
  | 0xB#4 => some .ksEval
  | 0xC#4 => some .blkEnc
  | 0xD#4 => some .blkDec
  | _ => none

/-- `decode(w) = if w[31:4] ≠ 0 then BAD_CMD else table[w[3:0]]` (30_encoding.md R83). Every 32-bit word gives one
command or BAD_CMD. -/
def decode (w : Word) : Except CmdError Instr :=
  if w.extractLsb' 4 28 ≠ 0#28 then .error .badCmd
  else
    match Instr.ofOpcode (w.extractLsb' 0 4) with
    | some i => .ok i
    | none => .error .badCmd

/-- The instruction the decoder reads from a table word: the low `nbits` bits of `w`, every bit above them 0. The
command word is always exactly 32 bits (30_encoding.md R87), so a value that needs more is no command word. -/
def decodeTableWord (nbits w : Nat) : Option Instr :=
  if w % 2 ^ nbits < 2 ^ 32 then
    match decode (BitVec.ofNat 32 (w % 2 ^ nbits)) with
    | .ok i => some i
    | .error _ => none
  else none

/-- The OP of a command (30_encoding.md R83). -/
def Instr.opcode : Instr → BitVec 4
  | .ecbEnc => 0x0#4
  | .ecbDec => 0x1#4
  | .cbcEnc => 0x2#4
  | .cbcDec => 0x3#4
  | .ctrEnc => 0x4#4
  | .ctrDec => 0x5#4
  | .expand => 0x8#4
  | .sbox   => 0x9#4
  | .fEval  => 0xA#4
  | .ksEval => 0xB#4
  | .blkEnc => 0xC#4
  | .blkDec => 0xD#4

/-- The command word of a command: reserved bits 0 above its OP (30_encoding.md R81). -/
def encode (i : Instr) : Word := 0#28 ++ i.opcode

/-- `OP[3] = 0`: a data command (30_encoding.md R82). -/
def Instr.isData (i : Instr) : Bool := !i.opcode.getLsbD 3

end Sys2Proof
end

