-- ==== Sys2Proof/Config.lean ====
section
/-! DEFINITION. What one implementation of the core fixes (the OPEN parameters of 00_scope.md R10) and the free
values, which the spec leaves open. Every constant here is `opaque` and has no body: no proof can learn a value of
it, so what is proved holds for every choice. -/

namespace Sys2Proof

/-- A substitution table: 16 entries of 3 bits, indexed by a 4-bit value (40_round_function.md R100, 10_state.md
R40). Every index has an entry and every entry is at most 7, by the type. -/
abbrev STable := Vector (BitVec 3) 16

/-- The parameters of an implementation (00_scope.md R10), less `LAT`, which is the schedule held in
`State.inputs`. The two widths are held so that the constraint of R10 holds by the type:
`KEY_W = 9 + keyExtra` lies in 9..32 and `BUF_BYTES = 3 * (bufGroups + 1)` is a multiple of 3 in 3..1023. -/
structure Params where
  /-- `SBOX1`: the values of S1. -/
  sbox1 : STable
  /-- `SBOX2`: the values of S2. -/
  sbox2 : STable
  /-- `KEY_W - 9`. -/
  keyExtra : Fin 24
  /-- `BUF_BYTES / 3 - 1`. -/
  bufGroups : Fin 341
  deriving DecidableEq, Repr, Inhabited

/-- `KEY_W`, the width in bits of the KEY register: 9 ≤ KEY_W ≤ 32 (R10). -/
def Params.keyW (p : Params) : Nat := 9 + p.keyExtra.val

/-- `BUF_BYTES`, the capacity in bytes of IN and of OUT: a multiple of 3, 3 ≤ BUF_BYTES ≤ 1023 (R10). -/
def Params.bufBytes (p : Params) : Nat := 3 * (p.bufGroups.val + 1)

/-- The parameters of this implementation. The source lost the S-box values and leaves the widths open (91 N1, N4,
N9; 92 D7, D10, D25): a constant with no body. State carries a copy of it, so a statement about every state
quantifies over the parameters as well. notes/assumptions/1.md, 2.md. -/
opaque Config.params : Params

/-- Free value: the byte the chip's storage holds at `IN[k]` when a data command reads that entry and no write has
reached it since reset (20_memory.md R79: the chip "returns whatever its storage holds"). The first argument is the
number of the draw. notes/assumptions/6.md. -/
opaque Config.freeInByte : Nat → Nat → Byte

/-- Free value: what a host read of an OUT entry returns while STATUS.BUSY = 1 (20_memory.md R70).
notes/assumptions/7.md. -/
opaque Config.freeOutRead : Nat → Byte

/-- Free value: what a host read of RES returns while STATUS.BUSY = 1 (20_memory.md R70).
notes/assumptions/7.md. -/
opaque Config.freeResRead : Nat → Block

end Sys2Proof
end

