-- ==== Sys2Proof/Machine/State.lean ====
section
/-! DEFINITION. The state of the machine (10_state.md), as plain data, the reasons a step can stop, and the state
after reset (70_reset_and_hazards.md R230–R233). -/

namespace Sys2Proof.Machine

/-- The storage of one buffer: pairs of an entry index and the byte that entry holds, indexes strictly rising. An
index that is not listed holds no value (10_state.md R37, R38, 20_memory.md R79). notes/assumptions/9.md. -/
abbrev Memory := List Host.Cell

/-- The canonical form: indexes strictly rising. An unlisted entry holds no value, so no listed byte can equal what
an unlisted entry reads as. -/
abbrev Memory.wf (m : Memory) : Prop := m.Pairwise (fun a b => a.1 < b.1)

/-- The engine's phase (10_state.md R42). -/
inductive Phase where
  | idle
  | busy
  deriving DecidableEq, Repr

/-- The fields of STATUS (10_state.md R25). -/
structure Status where
  /-- STATUS[0]: a command is being executed. -/
  busy : Bool
  /-- STATUS[1]: the last accepted command has completed, with or without error. -/
  done : Bool
  /-- STATUS[2]: the last accepted command completed with an error. -/
  err : Bool
  /-- STATUS[3]: a host write was dropped since the last command was accepted. -/
  ovr : Bool
  /-- STATUS[7:4]: the error code of the last accepted command. -/
  errCode : BitVec 4
  deriving DecidableEq, Repr

/-- The reasons a step stops with a fault. -/
inductive Fault where
  /-- 60_exceptions.md R207 `Uninit`: storage at this bus address holds no value. Raised by a host read of an IN or
  OUT entry that nothing has written since reset; the same reason is only recorded, in `State.recorded`, when a data
  command uses such an IN entry. Safe: the chip goes on with whatever its storage holds, so a run that stops here
  proves less than the chip does, nothing more. notes/assumptions/8.md. -/
  | uninit (addr : Addr)
  deriving DecidableEq, Repr

/-- The reasons the model gives no meaning. -/
inductive Refusal where
  /-- An instruction whose meaning is not written yet: `exec`'s arm raises it, by the mnemonic of the opcode table.
  Safe. No arm does so now. -/
  | notModelled (mnemonic : String)
  /-- The engine is BUSY and OPR holds one of the four reserved OP values (0x6, 0x7, 0xE, 0xF). Raised by the
  engine's turn. Acceptance never latches such a value (43_mode_engine.md R160), so no state of a run from reset
  raises it. Safe. notes/assumptions/14.md. -/
  | reservedOpr (opr : BitVec 4)
  deriving DecidableEq, Repr

/-- The bus's response to one host access (30_encoding.md R80, 60_exceptions.md R206). notes/assumptions/10.md. -/
inductive Response where
  /-- A read's data. -/
  | data (v : Word)
  /-- A write's normal response. -/
  | written
  /-- The access was refused. -/
  | busError (addr : Addr)
  deriving DecidableEq, Repr

/-- The state of the core (10_state.md R20), and after it the model's own fields (notes/assumptions/12.md). -/
structure State where
  /-- S1, S2 (R40) and the two open widths (00_scope.md R10). No step changes them. -/
  params : Params
  /-- STATUS (R25). -/
  status : Status
  /-- KEY (R30): always below 2^KEY_W. notes/assumptions/2.md. -/
  key : BitVec 32
  /-- ROUNDS (R31). -/
  rounds : BitVec 16
  /-- IV (R32). -/
  iv : BitVec 12
  /-- LEN (R33). -/
  len : BitVec 11
  /-- DA (R34). -/
  da : BitVec 16
  /-- DB (R35). -/
  db : BitVec 8
  /-- RES (R36). -/
  res : BitVec 12
  /-- IN (R37), by entry index. -/
  inBuf : Memory
  /-- OUT (R38), by entry index. -/
  outBuf : Memory
  /-- OPR (R39). -/
  opr : BitVec 4
  /-- PHASE (R42). -/
  phase : Phase
  /-- BLK (R43): the engine's block buffer; empty when it holds no value. -/
  blk : List Block
  /-- CBLK (R43): the unmodified ciphertext blocks during CBC_DEC; empty when it holds no value. -/
  cblk : List Block
  /-- The level of the reset input: `true` while reset is asserted (70_reset_and_hazards.md R230). -/
  resetLine : Bool
  /-- What comes from outside next, oldest first. notes/assumptions/3.md. -/
  inputs : List Input
  /-- The bus's response to the last host access. -/
  rsp : Option Response
  /-- The data of the last host read that returned data: the host's own copy. -/
  lastRead : Word
  /-- The `Uninit` faults recorded for data commands, oldest first (60_exceptions.md R207). -/
  recorded : List Fault
  /-- How many free values have been drawn. -/
  draws : Nat
  deriving DecidableEq, Repr

/-- STATUS after reset: 0x00000000 (70_reset_and_hazards.md R230). -/
def Status.reset : Status :=
  { busy := false, done := false, err := false, ovr := false, errCode := 0 }

/-- The machine right after reset (70_reset_and_hazards.md R230–R232). OPR is unspecified there and is 0 here: DESIGN
CHOICE, notes/assumptions/5.md. BLK and CBLK hold nothing: DESIGN CHOICE, notes/assumptions/4.md. The model's own
fields: notes/assumptions/12.md. -/
def State.reset : State :=
  { params := Config.params
    status := Status.reset
    key := 0
    rounds := 0
    iv := 0
    len := 0
    da := 0
    db := 0
    res := 0
    inBuf := []
    outBuf := []
    opr := 0
    phase := .idle
    blk := []
    cblk := []
    resetLine := false
    inputs := []
    rsp := none
    lastRead := 0
    recorded := []
    draws := 0 }

end Sys2Proof.Machine
end

