-- ==== Sys2Proof/Machine/Flags.lean ====
section
/-! DEFINITION. Every change of STATUS (10_state.md R25–R29, 43_mode_engine.md R160, R162, 60_exceptions.md R205,
R210) and the word a read of it returns. -/

namespace Sys2Proof.Machine

/-- The error codes (60_exceptions.md R201). -/
def errorCode : CmdError → BitVec 4
  | .badCmd => 1
  | .lenRange => 2
  | .lenAlign => 3

/-- One bit as a 32-bit word at position `n`. -/
def flagBit (f : Bool) (n : Nat) : Word := (BitVec.ofBool f).setWidth 32 <<< n

/-- The word a read of STATUS returns: BUSY, DONE, ERR, OVR in bits 0 to 3, ERRCODE in bits 7:4, zero above
(10_state.md R25). -/
def Status.word (st : Status) : Word :=
  flagBit st.busy 0 ||| flagBit st.done 1 ||| flagBit st.err 2 ||| flagBit st.ovr 3 |||
    (st.errCode.setWidth 32 <<< 4)

/-- A CMD write is taken: DONE, ERR, OVR and ERRCODE are cleared (43_mode_engine.md R160). -/
def Status.cleared (st : Status) : Status :=
  { st with done := false, err := false, ovr := false, errCode := 0 }

/-- The command is accepted without error: BUSY is set (43_mode_engine.md R160). -/
def Status.started (st : Status) : Status := { st with busy := true }

/-- The command completes: BUSY is cleared and DONE set; ERR, ERRCODE and OVR stay (43_mode_engine.md R162). -/
def Status.completed (st : Status) : Status := { st with busy := false, done := true }

/-- A command error: BUSY = 0, DONE = 1, ERR = 1, OVR = 0 and ERRCODE the code (60_exceptions.md R210). -/
def Status.failed (e : CmdError) : Status :=
  { busy := false, done := true, err := true, ovr := false, errCode := errorCode e }

/-- A write is dropped: OVR is set and nothing else (60_exceptions.md R205). -/
def Status.overrun (st : Status) : Status := { st with ovr := true }

end Sys2Proof.Machine
end

