-- ==== Sys2Proof/Machine/Packer.lean ====
section
/-! DEFINITION. The block packer (42_block_packer.md R140–R147; the byte order is 20_memory.md R65). -/

namespace Sys2Proof.Machine

/-- `block0` of a group: `{b0[7:0], b1[7:4]}` (R140). -/
def packFirst (b0 b1 : Byte) : Block := (b0.setWidth 12 <<< 4) ||| (b1.setWidth 12 >>> 4)

/-- `block1` of a group: `{b1[3:0], b2[7:0]}` (R140). -/
def packSecond (b1 b2 : Byte) : Block := ((b1.setWidth 12 &&& 0xF#12) <<< 8) ||| b2.setWidth 12

/-- `bytesToBlocks` (R141): two blocks for every whole group of three bytes, none for a partial group, which no
command ever gives it (R146). -/
def bytesToBlocks : List Byte → List Block
  | b0 :: b1 :: b2 :: rest => packFirst b0 b1 :: packSecond b1 b2 :: bytesToBlocks rest
  | _ => []

/-- Byte 0 of a pair of blocks: `k0[11:4]` (R142). -/
def unpackFirst (k0 : Block) : Byte := (k0 >>> 4).setWidth 8

/-- Byte 1 of a pair of blocks: `{k0[3:0], k1[11:8]}` (R142). -/
def unpackSecond (k0 k1 : Block) : Byte := (((k0 &&& 0xF#12) <<< 4) ||| (k1 >>> 8)).setWidth 8

/-- Byte 2 of a pair of blocks: `k1[7:0]` (R142). -/
def unpackThird (k1 : Block) : Byte := (k1 &&& 0xFF#12).setWidth 8

/-- `blocksToBytes` (R142): three bytes for every pair of blocks. -/
def blocksToBytes : List Block → List Byte
  | k0 :: k1 :: rest => unpackFirst k0 :: unpackSecond k0 k1 :: unpackThird k1 :: blocksToBytes rest
  | _ => []

end Sys2Proof.Machine
end

