-- ==== Sys2Proof/Machine/Ops.lean ====
section
/-! DEFINITION. The named operations over memory and registers: one byte read and written, the two ways acceptance
ends (a command error, the one exception-like entry of this core, and a start), the two ways a command completes, the
reset input. -/

namespace Sys2Proof.Machine

/-- The byte entry `k` holds, `none` where no write has reached it since reset (20_memory.md R79). -/
def Memory.read : Memory → Nat → Option Byte
  | [], _ => none
  | (a, b) :: rest, k => if a = k then some b else Memory.read rest k

/-- Entry `k` takes the byte `v`; the canonical form is kept. -/
def Memory.write : Memory → Nat → Byte → Memory
  | [], k, v => [(k, v)]
  | (a, b) :: rest, k, v =>
    if k < a then (k, v) :: (a, b) :: rest
    else if k = a then (k, v) :: rest
    else (a, b) :: Memory.write rest k v

/-- Entries `k`, `k+1`, … take the bytes of a list. -/
def Memory.writeBytes : Memory → Nat → List Byte → Memory
  | m, _, [] => m
  | m, k, v :: rest => Memory.writeBytes (m.write k v) (k + 1) rest

/-- The bus address of `IN[k]`: `0x1000 + 4·k` (10_state.md R37). -/
def inAddr (k : Nat) : Addr := BitVec.ofNat 16 (0x1000 + 4 * k)

/-- The bus address of `OUT[k]`: `0x2000 + 4·k` (10_state.md R38). -/
def outAddr (k : Nat) : Addr := BitVec.ofNat 16 (0x2000 + 4 * k)

/-- `IN[0..LEN−1]` as the engine reads it at acceptance. An entry that holds no value gives a free byte, which is
what the chip's storage happens to hold (20_memory.md R79, notes/assumptions/6.md). -/
def State.inputBytes (s : State) : List Byte :=
  (List.range s.len.toNat).map fun k => (s.inBuf.read k).getD (Config.freeInByte s.draws k)

/-- The `Uninit` faults a data command records: one for each `IN[k]`, k < LEN, that holds no value (60_exceptions.md
R207). -/
def State.missingInputs (s : State) : List Fault :=
  ((List.range s.len.toNat).filter fun k => (s.inBuf.read k).isNone).map fun k => .uninit (inAddr k)

/-- What BLK holds when `i` starts: the packed input for a data command, nothing for a diagnostic command, which reads
no buffer entry (10_state.md R43, 20_memory.md R73). -/
def State.blocksAtStart (i : Instr) (s : State) : List Block :=
  if i.isData then bytesToBlocks s.inputBytes else []

/-- What CBLK holds when `i` starts: the ciphertext blocks for CBC_DEC (10_state.md R43). -/
def State.copyAtStart (i : Instr) (s : State) : List Block :=
  if i = .cbcDec then bytesToBlocks s.inputBytes else []

/-- The end of a successful acceptance: OPR latches the OP, BUSY is set, PHASE is BUSY (43_mode_engine.md R160), and
BLK and CBLK are loaded (10_state.md R43, notes/assumptions/4.md). -/
def State.startCommand (i : Instr) (s : State) : State :=
  { s with
    opr := i.opcode
    status := s.status.started
    phase := .busy
    blk := s.blocksAtStart i
    cblk := s.copyAtStart i
    recorded := s.recorded ++ (if i.isData then s.missingInputs else [])
    draws := s.draws + (if i.isData then 1 else 0) }

/-- `raise CmdError(e)`: STATUS reports the error and every other register keeps its value (60_exceptions.md R210). -/
def State.raiseCmdError (e : CmdError) (s : State) : State := { s with status := Status.failed e }

/-- DONE, ERR, OVR and ERRCODE are cleared as acceptance begins (43_mode_engine.md R160). -/
def State.clearStatus (s : State) : State := { s with status := s.status.cleared }

/-- A host write is dropped (10_state.md R23). -/
def State.dropWrite (s : State) : State := { s with status := s.status.overrun }

/-- The completion of a data command with the result bytes `out`: `OUT[0..LEN−1]` is written, BUSY cleared, DONE set
(43_mode_engine.md R162), and the block buffers are discarded (10_state.md R43). -/
def State.completeData (out : List Byte) (s : State) : State :=
  { s with
    outBuf := s.outBuf.writeBytes 0 (out.take s.len.toNat)
    status := s.status.completed
    phase := .idle
    blk := []
    cblk := [] }

/-- The completion of a diagnostic command with the result `v` (43_mode_engine.md R162). -/
def State.completeDiag (v : BitVec 12) (s : State) : State :=
  { s with
    res := v
    status := s.status.completed
    phase := .idle }

/-- The bus answers a host access. -/
def State.respond (r : Response) (s : State) : State := { s with rsp := some r }

/-- The bus answers a read with data, and the host keeps it. -/
def State.returnData (v : Word) (s : State) : State := { s with rsp := some (.data v), lastRead := v }

/-- One free value is drawn. -/
def State.draw (s : State) : State := { s with draws := s.draws + 1 }

/-- The next input is taken off the list. -/
def State.takeInput (s : State) : State := { s with inputs := s.inputs.tail }

/-- Reset is asserted: registers to 0, PHASE to IDLE, a running command abandoned, IN and OUT without values
(70_reset_and_hazards.md R230–R232). S1, S2 and the widths stay; so do the model's own fields that stand for the
world outside. OPR becomes unspecified and is 0: DESIGN CHOICE, notes/assumptions/5.md. -/
def State.assertReset (s : State) : State :=
  { s with
    status := Status.reset
    key := 0
    rounds := 0
    iv := 0
    len := 0
    da := 0
    db := 0
    res := 0
    inBuf := []
    outBuf := []
    opr := 0
    phase := .idle
    blk := []
    cblk := []
    resetLine := true }

/-- Reset is released: the core is idle and ready for a command (70_reset_and_hazards.md R230). -/
def State.releaseReset (s : State) : State := { s with resetLine := false }

end Sys2Proof.Machine
end

