-- ==== Sys2Proof/Machine/Operands.lean ====
section
/-! DEFINITION. The operands a command reads (30_encoding.md R85, R86) and the register fields a host access reads
and writes (10_state.md R21, R30–R36). -/

namespace Sys2Proof.Machine

/-- `r = DA[5:0]`: EXPAND and F_EVAL (R86). -/
def State.operandHalf (s : State) : Half := s.da.extractLsb' 0 6

/-- `x = DA[7:0]`: SBOX (R86). -/
def State.operandMixed (s : State) : BitVec 8 := s.da.extractLsb' 0 8

/-- `i = DA[15:0]`: KS_EVAL (R86). -/
def State.operandIndex (s : State) : Nat := s.da.toNat

/-- `b = DA[11:0]`: BLK_ENC and BLK_DEC (R86). -/
def State.operandBlock (s : State) : Block := s.da.extractLsb' 0 12

/-- `k = DB[7:0]`: F_EVAL (R86). -/
def State.operandSubkey (s : State) : Subkey := s.db

/-- The field a host write stores in KEY: `data[KEY_W−1:0]` (10_state.md R21, R30). -/
def keyField (p : Params) (data : Word) : BitVec 32 := BitVec.ofNat 32 (data.toNat % 2 ^ p.keyW)

/-- A stored field as the 32-bit word a read returns: zero-extended (10_state.md R21). -/
def asWord {n : Nat} (v : BitVec n) : Word := v.setWidth 32

end Sys2Proof.Machine
end

