-- ==== Sys2Proof/Machine/Bus.lean ====
section
/-! DEFINITION. The host bus: the address map (20_memory.md R61), reads and writes of each location (10_state.md
R21–R38, 20_memory.md R62–R64, R68–R70, R79), bus errors (60_exceptions.md R206), the acceptance of a command
(43_mode_engine.md R160), the reset input (70_reset_and_hazards.md R230), and the host notation of 30_encoding.md
R88 and R89. -/

namespace Sys2Proof.Machine

/-- A location of the address map (20_memory.md R61). -/
inductive Location where
  | cmd | status | key | rounds | iv | len | da | db | res
  | inEntry (k : Nat)
  | outEntry (k : Nat)
  deriving DecidableEq, Repr

/-- The register at a byte address below 0x1000 (20_memory.md R61). -/
def registerAt (a : Nat) : Option Location :=
  match a with
  | 0x0000 => some .cmd
  | 0x0004 => some .status
  | 0x0008 => some .key
  | 0x000C => some .rounds
  | 0x0010 => some .iv
  | 0x0014 => some .len
  | 0x0018 => some .da
  | 0x001C => some .db
  | 0x0020 => some .res
  | _ => none

/-- The address map (20_memory.md R61) on word-aligned addresses: `none` where the address is reserved. -/
def locate (p : Params) (a : Addr) : Option Location :=
  if a.toNat < 0x1000 then registerAt a.toNat
  else if a.toNat < 0x1000 + 4 * p.bufBytes then some (.inEntry ((a.toNat - 0x1000) / 4))
  else if 0x2000 ≤ a.toNat ∧ a.toNat < 0x2000 + 4 * p.bufBytes then some (.outEntry ((a.toNat - 0x2000) / 4))
  else none

/-- The bus address of a location (30_encoding.md R88, 20_memory.md R61). -/
def Location.addr : Location → Addr
  | .cmd => 0x0000
  | .status => 0x0004
  | .key => 0x0008
  | .rounds => 0x000C
  | .iv => 0x0010
  | .len => 0x0014
  | .da => 0x0018
  | .db => 0x001C
  | .res => 0x0020
  | .inEntry k => inAddr k
  | .outEntry k => outAddr k

/-- The locations a host write changes, or would change if the core were not BUSY (10_state.md R23): all but the
read-only STATUS, RES and OUT. -/
def Location.writable : Location → Bool
  | .cmd | .key | .rounds | .iv | .len | .da | .db | .inEntry _ => true
  | .status | .res | .outEntry _ => false

/-- The checks of acceptance, in the order of 43_mode_engine.md R160 and 60_exceptions.md R209: the first that fails
is the error. -/
def State.checkCommand (w : Word) (s : State) : Except CmdError Instr :=
  match decode w with
  | .error e => .error e
  | .ok i =>
    if i.isData then
      if s.params.bufBytes < s.len.toNat then .error .lenRange
      else if s.len.toNat % 3 ≠ 0 then .error .lenAlign
      else .ok i
    else .ok i

/-- Acceptance of the command word `w`, which the host wrote to CMD while STATUS.BUSY = 0 (43_mode_engine.md R160). -/
def State.acceptCommand (w : Word) (s : State) : State :=
  match s.checkCommand w with
  | .ok i => s.clearStatus.startCommand i
  | .error e => s.clearStatus.raiseCmdError e

/-- A host write of `data` to a location while STATUS.BUSY = 0 (10_state.md R21, R22, R24, R30–R38). -/
def State.storeAt (loc : Location) (data : Word) (s : State) : State :=
  match loc with
  | .cmd => s.acceptCommand data
  | .key => { s with key := keyField s.params data }
  | .rounds => { s with rounds := data.setWidth 16 }
  | .iv => { s with iv := data.setWidth 12 }
  | .len => { s with len := data.setWidth 11 }
  | .da => { s with da := data.setWidth 16 }
  | .db => { s with db := data.setWidth 8 }
  | .inEntry k => { s with inBuf := s.inBuf.write k (data.setWidth 8) }
  | .status | .res | .outEntry _ => s

/-- A host write of `data` to a location: a writable location drops it while BUSY and sets OVR (10_state.md R23), a
read-only one ignores it at any time (R22). -/
def State.hostWrite (loc : Location) (data : Word) (s : State) : State :=
  if s.status.busy && loc.writable then s.dropWrite else s.storeAt loc data

/-- A read of a buffer entry: its byte zero-extended (20_memory.md R64), or the fault `Uninit` where the entry holds no
value (R79). -/
def State.readEntry (m : Memory) (k : Nat) (a : Addr) (s : State) : Host.Outcome State Fault Refusal :=
  match m.read k with
  | some b => .next (s.returnData (asWord b))
  | none => .fault (.uninit a)

/-- A host read of a location (10_state.md R21, R22, R25, R30–R38). While BUSY, RES and OUT give a free value with the
bits above the field 0 (20_memory.md R70, notes/assumptions/7.md). -/
def State.hostRead (loc : Location) (s : State) : Host.Outcome State Fault Refusal :=
  match loc with
  | .cmd => .next (s.returnData 0)
  | .status => .next (s.returnData s.status.word)
  | .key => .next (s.returnData (asWord s.key))
  | .rounds => .next (s.returnData (asWord s.rounds))
  | .iv => .next (s.returnData (asWord s.iv))
  | .len => .next (s.returnData (asWord s.len))
  | .da => .next (s.returnData (asWord s.da))
  | .db => .next (s.returnData (asWord s.db))
  | .res =>
    if s.status.busy then .next (s.draw.returnData (asWord (Config.freeResRead s.draws)))
    else .next (s.returnData (asWord s.res))
  | .inEntry k => s.readEntry s.inBuf k (inAddr k)
  | .outEntry k =>
    if s.status.busy then .next (s.draw.returnData (asWord (Config.freeOutRead s.draws)))
    else s.readEntry s.outBuf k (outAddr k)

/-- The location an access reaches: `none` where it is refused, because it is not 32 bits wide, is misaligned or goes
to a reserved address (60_exceptions.md R206). -/
def Access.target (p : Params) (a : Access) : Option Location :=
  if a.wellFormed then locate p a.addr else none

/-- One host access. While reset is asserted it has no effect (70_reset_and_hazards.md R230) and no response
(notes/assumptions/11.md). A refused access changes nothing, and the bus answers with an error (60_exceptions.md
R206). -/
def State.hostAccess (a : Access) (s : State) : Host.Outcome State Fault Refusal :=
  if s.resetLine then .next { s with rsp := none }
  else
    match Access.target s.params a with
    | none => .next (s.respond (.busError a.addr))
    | some loc =>
      match a with
      | .read _ _ => s.hostRead loc
      | .write _ _ data => .next ((s.hostWrite loc data).respond .written)

/-- A change of the reset input's level (70_reset_and_hazards.md R230). -/
def State.resetInput (asserted : Bool) (s : State) : State :=
  if asserted then s.assertReset else s.releaseReset

/-- `wr <loc>, v` (30_encoding.md R88). -/
def wr (loc : Location) (v : Word) : Input := .access (.write loc.addr 32 v)

/-- `rd <loc>` (30_encoding.md R88). -/
def rd (loc : Location) : Input := .access (.read loc.addr 32)

/-- The pseudo-instruction `cmd <MNEMONIC>` (30_encoding.md R89). -/
def cmd (i : Instr) : List Input := [wr .cmd (encode i)]

/-- The pseudo-instruction `wait` in a run where `polls` reads of STATUS come before the completion and one after it
(30_encoding.md R89): the place of the engine's turn is the time LAT. -/
def wait (polls : Nat) : List Input := List.replicate polls (rd .status) ++ [.engine, rd .status]

/-- The pseudo-instruction `fill IN, b0, …, bm`, from entry `k` (30_encoding.md R89). -/
def fillFrom : Nat → List Byte → List Input
  | _, [] => []
  | k, b :: rest => wr (.inEntry k) (asWord b) :: fillFrom (k + 1) rest

/-- The pseudo-instruction `setup k, n, v, len` (30_encoding.md R89). -/
def setup (k n v len : Word) : List Input := [wr .key k, wr .rounds n, wr .iv v, wr .len len]

/-- The pseudo-instruction `copy n` (30_encoding.md R89). -/
def copyOut (n : Nat) : List Input :=
  (List.range n).flatMap fun k => [rd (.outEntry k), .writeRead (inAddr k)]

end Sys2Proof.Machine
end

