-- ==== Sys2Proof/Machine/KeySchedule.lean ====
section
/-! DEFINITION. The key schedule (41_key_schedule.md R120–R130), on unbounded naturals as 00_scope.md R14 defines its
shifts, with the one signed intermediate of R13. -/

namespace Sys2Proof.Machine

/-- A shift by a signed amount: right when it is negative, left otherwise (R124). -/
def shiftBy (v : Nat) (sh : Int) : Nat := if sh < 0 then v >>> (-sh).toNat else v <<< sh.toNat

/-- Steps 1 to 7 before the truncation: `raw` (R121–R126). -/
def subkeyRaw (key i : Nat) : Nat :=
  let ip := i % 10
  let splitBit := 10 - ip
  let mask := 1 <<< splitBit
  let low := key &&& (mask - 1)
  let rotatedLow := shiftBy low ((ip : Int) - 2)
  let high := key >>> (splitBit + 1)
  rotatedLow ||| high

/-- `subkey(key, i) = raw mod 256` (R126), for a key of any width (R129) and any round index (R130). -/
def subkey (key : BitVec 32) (i : Nat) : Subkey := BitVec.ofNat 8 (subkeyRaw key.toNat i)

end Sys2Proof.Machine
end

