-- ==== Sys2Proof/Machine/RoundFunction.lean ====
section
/-! DEFINITION. The substitution tables and the round function (40_round_function.md R100–R107). -/

namespace Sys2Proof.Machine

/-- The expansion wiring E (10_state.md R41): output bit p copies input bit `Etab[p]`. -/
def Etab : Vector (Fin 6) 8 := #v[0, 1, 3, 2, 3, 2, 4, 5]

/-- The expansion `E(r)` (R102): `E(r)[p] = r[Etab[p]]`. -/
def expandHalf (r : Half) : BitVec 8 := BitVec.ofFnLE fun p => r.getLsb (Etab.get p)

/-- A look-up in one substitution table: total on every 4-bit index (R100). -/
def lookup (t : STable) (n : BitVec 4) : BitVec 3 := t[n.toNat]'(by have := n.isLt; omega)

/-- Both look-ups of a key-mixed value: the high nibble indexes S1, the low nibble S2, and S1's output is the high
half of the result (R101, R104, R105). -/
def substitute (p : Params) (x : BitVec 8) : Half :=
  lookup p.sbox1 (x.extractLsb' 4 4) ++ lookup p.sbox2 (x.extractLsb' 0 4)

/-- The round function `f(r, k)` (R103–R106). -/
def roundF (p : Params) (r : Half) (k : Subkey) : Half := substitute p (expandHalf r ^^^ k)

end Sys2Proof.Machine
end

