-- ==== Sys2Proof/Machine/Feistel.lean ====
section
/-! DEFINITION. The Feistel rounds, the block transforms and the chaining of blocks (43_mode_engine.md R165–R180). -/

namespace Sys2Proof.Machine

/-- The left half of a block, bits 11:6 (20_memory.md R66). -/
def leftHalf (b : Block) : Half := b.extractLsb' 6 6

/-- The right half of a block, bits 5:0 (20_memory.md R66). -/
def rightHalf (b : Block) : Half := b.extractLsb' 0 6

/-- The encryption round: `{r, f(r, k) XOR l}`, with no swap after it (R165, 90_conflicts.md C2). -/
def encRound (p : Params) (b : Block) (k : Subkey) : Block :=
  rightHalf b ++ (roundF p (rightHalf b) k ^^^ leftHalf b)

/-- The decryption round: `{f(l, k) XOR r, l}` (R166). -/
def decRound (p : Params) (b : Block) (k : Subkey) : Block :=
  (roundF p (leftHalf b) k ^^^ rightHalf b) ++ leftHalf b

/-- `encBlock(key, n, b)`: rounds 1 to n, ascending (R168); no round for n = 0 (R171). -/
def encBlock (p : Params) (key : BitVec 32) : Nat → Block → Block
  | 0, b => b
  | n + 1, b => encRound p (encBlock p key n b) (subkey key (n + 1))

/-- `decBlock(key, n, b)`: rounds n down to 1 (R169); no round for n = 0 (R171). -/
def decBlock (p : Params) (key : BitVec 32) : Nat → Block → Block
  | 0, b => b
  | n + 1, b => decBlock p key n (decRound p b (subkey key (n + 1)))

/-- ECB: every block by itself (R173, R174). -/
def ecbBlocks (transform : Block → Block) (blocks : List Block) : List Block := blocks.map transform

/-- CBC encryption: each block is XORed with the block encrypted before it, the first with the IV (R175). -/
def cbcEncBlocks (transform : Block → Block) : Block → List Block → List Block
  | _, [] => []
  | prev, b :: rest =>
    let c := transform (b ^^^ prev)
    c :: cbcEncBlocks transform c rest

/-- CBC decryption: after its transform each block is XORed with the ciphertext block before it, the first with the
IV; `cipher` is the unmodified copy (R176, 10_state.md R43). -/
def cbcDecBlocks (transform : Block → Block) (iv : Block) (cipher blocks : List Block) : List Block :=
  List.zipWith (fun c prev => transform c ^^^ prev) blocks (iv :: cipher)

/-- CTR in either direction: each block is XORed with the transform of a counter that starts at the IV and wraps
modulo 4096 (R177, R178). -/
def ctrBlocks (transform : Block → Block) : Block → List Block → List Block
  | _, [] => []
  | ctr, b :: rest => (b ^^^ transform ctr) :: ctrBlocks transform (ctr + 1) rest

end Sys2Proof.Machine
end

