-- ==== Sys2Proof/Machine/DataCommands.lean ====
section
/-! DEFINITION. The meanings of the six data commands (43_mode_engine.md R173–R178): the engine's one step from BUSY
to completion (R161, R162). BLK holds `bytesToBlocks(IN[0..LEN−1])` since acceptance. -/

namespace Sys2Proof.Machine

/-- `encBlock(KEY, ROUNDS, ·)` (R168). -/
def State.encrypt (s : State) : Block → Block := encBlock s.params s.key s.rounds.toNat

/-- `decBlock(KEY, ROUNDS, ·)` (R169). -/
def State.decrypt (s : State) : Block → Block := decBlock s.params s.key s.rounds.toNat

/-- ECB_ENC (R173): every block encrypted; IV ignored. -/
def execEcbEnc (s : State) : Host.Outcome State Fault Refusal :=
  .next (s.completeData (blocksToBytes (ecbBlocks s.encrypt s.blk)))

/-- ECB_DEC (R174): every block decrypted; IV ignored. -/
def execEcbDec (s : State) : Host.Outcome State Fault Refusal :=
  .next (s.completeData (blocksToBytes (ecbBlocks s.decrypt s.blk)))

/-- CBC_ENC (R175). -/
def execCbcEnc (s : State) : Host.Outcome State Fault Refusal :=
  .next (s.completeData (blocksToBytes (cbcEncBlocks s.encrypt s.iv s.blk)))

/-- CBC_DEC (R176): the XOR is against the unmodified ciphertext CBLK. -/
def execCbcDec (s : State) : Host.Outcome State Fault Refusal :=
  .next (s.completeData (blocksToBytes (cbcDecBlocks s.decrypt s.iv s.cblk s.blk)))

/-- CTR_ENC (R177): the keystream is the encryption of the counter. -/
def execCtrEnc (s : State) : Host.Outcome State Fault Refusal :=
  .next (s.completeData (blocksToBytes (ctrBlocks s.encrypt s.iv s.blk)))

/-- CTR_DEC (R178): identical to CTR_ENC, with the encryption direction of the block transform. -/
def execCtrDec (s : State) : Host.Outcome State Fault Refusal :=
  .next (s.completeData (blocksToBytes (ctrBlocks s.encrypt s.iv s.blk)))

end Sys2Proof.Machine
end

