-- ==== Sys2Proof/Machine/DiagnosticCommands.lean ====
section
/-! DEFINITION. The meanings of the six diagnostic commands (30_encoding.md R86, 40_round_function.md R108–R110,
41_key_schedule.md R131, 43_mode_engine.md R181, R182): the engine's one step from BUSY to completion, which writes
RES. -/

namespace Sys2Proof.Machine

/-- EXPAND (40_round_function.md R108): `RES[7:0] = E(DA[5:0])`. -/
def execExpand (s : State) : Host.Outcome State Fault Refusal :=
  .next (s.completeDiag ((expandHalf s.operandHalf).setWidth 12))

/-- SBOX (40_round_function.md R109): `RES[5:0] = {S1[x[7:4]], S2[x[3:0]]}` with x = DA[7:0]. -/
def execSbox (s : State) : Host.Outcome State Fault Refusal :=
  .next (s.completeDiag ((substitute s.params s.operandMixed).setWidth 12))

/-- F_EVAL (40_round_function.md R110): `RES[5:0] = f(DA[5:0], DB)`. -/
def execFEval (s : State) : Host.Outcome State Fault Refusal :=
  .next (s.completeDiag ((roundF s.params s.operandHalf s.operandSubkey).setWidth 12))

/-- KS_EVAL (41_key_schedule.md R131): `RES[7:0] = subkey(KEY, DA)`. -/
def execKsEval (s : State) : Host.Outcome State Fault Refusal :=
  .next (s.completeDiag ((subkey s.key s.operandIndex).setWidth 12))

/-- BLK_ENC (43_mode_engine.md R181): `RES = encBlock(KEY, ROUNDS, DA[11:0])`. -/
def execBlkEnc (s : State) : Host.Outcome State Fault Refusal :=
  .next (s.completeDiag (encBlock s.params s.key s.rounds.toNat s.operandBlock))

/-- BLK_DEC (43_mode_engine.md R182): `RES = decBlock(KEY, ROUNDS, DA[11:0])`. -/
def execBlkDec (s : State) : Host.Outcome State Fault Refusal :=
  .next (s.completeDiag (decBlock s.params s.key s.rounds.toNat s.operandBlock))

end Sys2Proof.Machine
end

