-- ==== Sys2Proof/Machine/Engine.lean ====
section
/-! DEFINITION. The engine's turn, the step over one input, and how a command is placed where the next step runs it
(notes/assumptions/3.md, 13.md). -/

namespace Sys2Proof.Machine

/-- The engine's turn: a running command, the one OPR holds, is executed to completion (43_mode_engine.md R161, R162).
With no running command nothing changes (60_exceptions.md R219). -/
def engineTurn (s : State) : Host.Outcome State Fault Refusal :=
  match s.phase with
  | .idle => .next s
  | .busy =>
    match Instr.ofOpcode s.opr with
    | some i => exec i s
    | none => .refused (.reservedOpr s.opr)

/-- One input takes effect on the state from which it has been taken (20_memory.md R69). -/
def applyInput (x : Input) (s : State) : Host.Outcome State Fault Refusal :=
  match x with
  | .access a => s.hostAccess a
  | .writeRead addr => s.hostAccess (.write addr 32 s.lastRead)
  | .reset asserted => .next (s.resetInput asserted)
  | .engine => engineTurn s

/-- One step: the next input, or the engine's turn when nothing comes from outside. So a command always completes
(43_mode_engine.md R162: weak fairness). -/
def nextTurn (s : State) : Host.Outcome State Fault Refusal :=
  match s.inputs with
  | [] => engineTurn s
  | x :: rest => applyInput x { s with inputs := rest }

/-- The state in which the very next step runs the command word `w`. A word that acceptance takes is placed where the
engine finds its command: acceptance has taken place and the engine has the next turn. A word that acceptance refuses
never reaches the engine; its write to CMD is the next input (notes/assumptions/13.md). -/
def placeCommand (w : Word) (s : State) : State :=
  let idle :=
    { s with resetLine := false, status := { s.status with busy := false }, phase := .idle, blk := [], cblk := [] }
  match idle.checkCommand w with
  | .ok _ => { idle.acceptCommand w with inputs := .engine :: s.inputs }
  | .error _ => { idle with inputs := wr .cmd w :: s.inputs }

end Sys2Proof.Machine
end

