-- ==== Sys2Proof/Machine/Step.lean ====
section
/-! DEFINITION. One step of the machine, and the state with a command placed where the next step runs it. -/

namespace Sys2Proof.Machine

/-- One step: the next input from outside, or the engine's turn (Machine/Engine.lean). -/
def step (s : State) : Host.Outcome State Fault Refusal := nextTurn s

/-- `s` with the command word whose low `nbits` bits are those of `w`, placed so that the very next step runs exactly
it. notes/assumptions/13.md. -/
def State.withFetchWord (s : State) (nbits w : Nat) : State := placeCommand (BitVec.ofNat 32 (w % 2 ^ nbits)) s

end Sys2Proof.Machine
end

