-- ==== Sys2Proof/Machine/Work.lean ====
section
/-! DEFINITION. Which evaluations of the round function a command makes (43_mode_engine.md R164): one pair of a
half-block and a subkey for each evaluation of f, in order. No step reads this; it is what the work bound of R164
counts. -/

namespace Sys2Proof.Machine

/-- The evaluations of f in `encBlock p key n b`. -/
def encEvals (p : Params) (key : BitVec 32) : Nat → Block → List (Half × Subkey)
  | 0, _ => []
  | n + 1, b => encEvals p key n b ++ [(rightHalf (encBlock p key n b), subkey key (n + 1))]

/-- The evaluations of f in `decBlock p key n b`. -/
def decEvals (p : Params) (key : BitVec 32) : Nat → Block → List (Half × Subkey)
  | 0, _ => []
  | n + 1, b => (leftHalf b, subkey key (n + 1)) :: decEvals p key n (decRound p b (subkey key (n + 1)))

/-- The evaluations of f in CBC encryption: those of each block XORed with the block encrypted before it. -/
def cbcEncEvals (transform : Block → Block) (evals : Block → List (Half × Subkey)) :
    Block → List Block → List (Half × Subkey)
  | _, [] => []
  | prev, b :: rest =>
    evals (b ^^^ prev) ++ cbcEncEvals transform evals (transform (b ^^^ prev)) rest

/-- The evaluations of f in CTR: those of one counter a block. -/
def ctrEvals (evals : Block → List (Half × Subkey)) : Block → List Block → List (Half × Subkey)
  | _, [] => []
  | ctr, _ :: rest => evals ctr ++ ctrEvals evals (ctr + 1) rest

/-- The evaluations of f that the engine makes when it executes `i` in `s` (R164). -/
def commandEvals (i : Instr) (s : State) : List (Half × Subkey) :=
  let enc := encEvals s.params s.key s.rounds.toNat
  let dec := decEvals s.params s.key s.rounds.toNat
  match i with
  | .ecbEnc => s.blk.flatMap enc
  | .ecbDec => s.blk.flatMap dec
  | .cbcEnc => cbcEncEvals s.encrypt enc s.iv s.blk
  | .cbcDec => s.blk.flatMap dec
  | .ctrEnc | .ctrDec => ctrEvals enc s.iv s.blk
  | .expand | .sbox | .ksEval => []
  | .fEval => [(s.operandHalf, s.operandSubkey)]
  | .blkEnc => enc s.operandBlock
  | .blkDec => dec s.operandBlock

end Sys2Proof.Machine
end

