-- ==== Sys2Proof/Safety.lean ====
section
/-! DEFINITION. What counts as a sound state of the machine, and the terms the statements use: the invariant, what a
buffer holds, what a completed command leaves unchanged. -/

namespace Sys2Proof.Machine

/-- LEN is one a data command accepts (10_state.md R33, 60_exceptions.md R203, R204). -/
def State.LenLegal (s : State) : Prop := s.len.toNat ≤ s.params.bufBytes ∧ s.len.toNat % 3 = 0

/-- `IN[0..LEN−1]` has been written, and its bytes are `bytes`. -/
def State.HoldsIn (s : State) (bytes : List Byte) : Prop :=
  bytes.length = s.len.toNat ∧ ∀ k, k < s.len.toNat → s.inBuf.read k = bytes[k]?

/-- OUT starts with the bytes `bytes`. -/
def State.HoldsOut (s : State) (bytes : List Byte) : Prop :=
  ∀ k, k < bytes.length → s.outBuf.read k = bytes[k]?

/-- What is true while the engine runs the data command `i`: LEN was accepted, BLK holds the blocks of
`IN[0..LEN−1]` (with a free byte where an entry holds no value, and then the fault is recorded), and CBLK holds the
same blocks for CBC_DEC (10_state.md R43, 60_exceptions.md R207). -/
structure State.RunsData (i : Instr) (s : State) : Prop where
  lenLegal : s.LenLegal
  blocks : s.blk.length = 2 * (s.len.toNat / 3)
  loaded : ∀ k b, k < s.len.toNat → s.inBuf.read k = some b → (blocksToBytes s.blk)[k]? = some b
  missing : ∀ k, k < s.len.toNat → s.inBuf.read k = none → Fault.uninit (inAddr k) ∈ s.recorded
  copy : s.cblk = if i = .cbcDec then s.blk else []

/-- What is true while the engine runs the command `i`: OPR holds its OP, and its buffers are loaded. -/
structure State.Runs (i : Instr) (s : State) : Prop where
  latched : s.opr = i.opcode
  data : i.isData = true → s.RunsData i
  diag : i.isData = false → s.blk = [] ∧ s.cblk = []

/-- The machine's invariant. It rules out the states no run reaches: a buffer outside its canonical form or its
capacity, a KEY wider than KEY_W (10_state.md R30), PHASE and STATUS.BUSY at odds (R42), BUSY with DONE (R27), an
error code that does not fit ERR (R28), a running engine without a legal command (43_mode_engine.md R160), an idle one
with blocks in its buffers (10_state.md R43), a core that is not in reset's values while reset is asserted
(70_reset_and_hazards.md R230). -/
structure State.Inv (s : State) : Prop where
  inCanonical : s.inBuf.wf
  outCanonical : s.outBuf.wf
  inCapacity : ∀ c ∈ s.inBuf, c.1 < s.params.bufBytes
  outCapacity : ∀ c ∈ s.outBuf, c.1 < s.params.bufBytes
  keyFits : s.key.toNat < 2 ^ s.params.keyW
  phaseIsBusy : s.phase = .busy ↔ s.status.busy = true
  busyNotDone : s.status.busy = true → s.status.done = false
  errHasCode : s.status.err = true ↔ s.status.errCode ≠ 0
  errCodeLegal : s.status.errCode.toNat ≤ 3
  errIsDone : s.status.err = true → s.status.done = true
  idleEmpty : s.phase = .idle → s.blk = [] ∧ s.cblk = []
  busyRuns : s.phase = .busy → ∃ i, s.Runs i
  inReset : s.resetLine = true → s.status = Status.reset ∧ s.res = 0 ∧ s.inBuf = [] ∧ s.outBuf = []

/-- The engine is executing `i` in a sound state. -/
structure State.Executing (i : Instr) (s : State) : Prop where
  sound : s.Inv
  busy : s.phase = .busy
  latched : s.opr = i.opcode

/-- The core is sound, idle and out of reset: it takes a command. -/
structure State.Ready (s : State) : Prop where
  sound : s.Inv
  idle : s.phase = .idle
  released : s.resetLine = false

/-- What every command leaves unchanged when the engine completes it: the tables and widths, the parameter registers,
IN, OPR, the STATUS bits ERR, OVR and ERRCODE, the reset input and the model's own fields. -/
structure CommonFrame (s t : State) : Prop where
  params : t.params = s.params
  key : t.key = s.key
  rounds : t.rounds = s.rounds
  iv : t.iv = s.iv
  len : t.len = s.len
  da : t.da = s.da
  db : t.db = s.db
  inBuf : t.inBuf = s.inBuf
  opr : t.opr = s.opr
  err : t.status.err = s.status.err
  ovr : t.status.ovr = s.status.ovr
  errCode : t.status.errCode = s.status.errCode
  resetLine : t.resetLine = s.resetLine
  inputs : t.inputs = s.inputs
  rsp : t.rsp = s.rsp
  lastRead : t.lastRead = s.lastRead
  recorded : t.recorded = s.recorded
  draws : t.draws = s.draws

/-- The completed command is reported: BUSY = 0, DONE = 1, PHASE IDLE (43_mode_engine.md R162). -/
structure Completed (t : State) : Prop where
  notBusy : t.status.busy = false
  done : t.status.done = true
  idle : t.phase = .idle

/-- The lines that every command's rule has beside its result: the command word (30_encoding.md R83), the errors of its
acceptance (60_exceptions.md R203, R204: LEN is checked for a data command only), and that execution itself raises
none (43_mode_engine.md R162: ERR and ERRCODE stay 0). -/
structure IssuedAndReported (i : Instr) (word : Word) (t : State) : Prop where
  encoding : encode i = word ∧ decode word = .ok i
  acceptance : ∀ u : State, u.checkCommand word =
    if i.isData = true ∧ u.params.bufBytes < u.len.toNat then .error .lenRange
    else if i.isData = true ∧ u.len.toNat % 3 ≠ 0 then .error .lenAlign
    else .ok i
  noError : t.status.err = false ∧ t.status.errCode = 0

/-- The frame of a data command: besides the common frame, RES and every OUT entry at LEN and above are unchanged, and
the block buffers hold nothing afterwards (43_mode_engine.md R162, 10_state.md R38, R43). -/
structure DataFrame (s t : State) : Prop where
  common : CommonFrame s t
  res : t.res = s.res
  outAbove : ∀ k, s.len.toNat ≤ k → t.outBuf.read k = s.outBuf.read k
  discarded : t.blk = [] ∧ t.cblk = []

/-- The frame of a diagnostic command: besides the common frame, OUT and the block buffers are unchanged
(43_mode_engine.md R162, 20_memory.md R73). -/
structure DiagFrame (s t : State) : Prop where
  common : CommonFrame s t
  outBuf : t.outBuf = s.outBuf
  blk : t.blk = s.blk
  cblk : t.cblk = s.cblk

/-- The core's registers and buffers besides STATUS, OPR and the block buffers are unchanged: what a refused command
and a started one leave as it was (60_exceptions.md R210, 43_mode_engine.md R160). -/
structure SameStore (s t : State) : Prop where
  params : t.params = s.params
  key : t.key = s.key
  rounds : t.rounds = s.rounds
  iv : t.iv = s.iv
  len : t.len = s.len
  da : t.da = s.da
  db : t.db = s.db
  res : t.res = s.res
  inBuf : t.inBuf = s.inBuf
  outBuf : t.outBuf = s.outBuf

/-- Two states give a command the same inputs: the tables, KEY, ROUNDS, IV, LEN, DA, DB (43_mode_engine.md R163). -/
structure SameParameters (s u : State) : Prop where
  params : u.params = s.params
  key : u.key = s.key
  rounds : u.rounds = s.rounds
  iv : u.iv = s.iv
  len : u.len = s.len
  da : u.da = s.da
  db : u.db = s.db

/-- A location that exists on this implementation: a buffer entry below BUF_BYTES (20_memory.md R61). -/
def Location.exists (p : Params) : Location → Prop
  | .inEntry k | .outEntry k => k < p.bufBytes
  | .cmd | .status | .key | .rounds | .iv | .len | .da | .db | .res => True

/-- An access the bus refuses, written from the address map (20_memory.md R61–R63, 60_exceptions.md R206). -/
def Refused (p : Params) (a : Access) : Prop :=
  a.width ≠ 32 ∨ a.addr.toNat % 4 ≠ 0 ∨
    (0x0024 ≤ a.addr.toNat ∧ a.addr.toNat ≤ 0x0FFF) ∨
    (0x1000 + 4 * p.bufBytes ≤ a.addr.toNat ∧ a.addr.toNat ≤ 0x1FFF) ∨
    (0x2000 + 4 * p.bufBytes ≤ a.addr.toNat ∧ a.addr.toNat ≤ 0x2FFF) ∨
    0x3000 ≤ a.addr.toNat

/-- The width of a read-write parameter register (10_state.md R30–R35). -/
def registerWidth (p : Params) : Location → Option Nat
  | .key => some p.keyW
  | .rounds => some 16
  | .iv => some 12
  | .len => some 11
  | .da => some 16
  | .db => some 8
  | .cmd | .status | .res | .inEntry _ | .outEntry _ => none

/-- The block sequence CBC encryption produces from `plain` (43_mode_engine.md R175), written from the rule: block i is
the transform of `plain[i]` XOR the block before it, the first with the IV. -/
def IsCbcChain (transform : Block → Block) (iv : Block) (plain cipher : List Block) : Prop :=
  cipher.length = plain.length ∧
    ∀ i, i < plain.length →
      cipher.getD i 0 = transform (plain.getD i 0 ^^^ (if i = 0 then iv else cipher.getD (i - 1) 0))

end Sys2Proof.Machine
end

