-- ==== Sys2Proof/Certificates/Slice0/Obligations.lean ====
section
/-! DEFINITION. The statements for the provers. Each one's docstring names the rule of spec/ it formalises. -/

open Sys2Proof
open Sys2Proof.Machine

/-! ### Encoding -/

/-- The OP map, word by word, as 30_encoding.md R83 writes it out: twelve commands, four reserved values. -/
def Obligations.CommandWordsOfTheOpMapDecode : Prop :=
  decode 0x00000000 = .ok .ecbEnc ∧ decode 0x00000001 = .ok .ecbDec ∧ decode 0x00000002 = .ok .cbcEnc ∧
  decode 0x00000003 = .ok .cbcDec ∧ decode 0x00000004 = .ok .ctrEnc ∧ decode 0x00000005 = .ok .ctrDec ∧
  decode 0x00000006 = .error .badCmd ∧ decode 0x00000007 = .error .badCmd ∧ decode 0x00000008 = .ok .expand ∧
  decode 0x00000009 = .ok .sbox ∧ decode 0x0000000A = .ok .fEval ∧ decode 0x0000000B = .ok .ksEval ∧
  decode 0x0000000C = .ok .blkEnc ∧ decode 0x0000000D = .ok .blkDec ∧ decode 0x0000000E = .error .badCmd ∧
  decode 0x0000000F = .error .badCmd

/-- Decode and encode agree both ways: a word decodes to a command exactly when it is that command's word. -/
def Obligations.DecodeIsTheInverseOfEncode : Prop :=
  ∀ (w : Word) (i : Instr), decode w = .ok i ↔ w = encode i

/-- 30_encoding.md R84: the refused words are those with a reserved OP or a nonzero reserved bit. -/
def Obligations.DecodeRefusesExactlyTheReservedWords : Prop :=
  ∀ w : Word, decode w = .error .badCmd ↔
    (w.toNat % 16 = 0x6 ∨ w.toNat % 16 = 0x7 ∨ w.toNat % 16 = 0xE ∨ w.toNat % 16 = 0xF ∨ 16 ≤ w.toNat)

/-! ### Round function and key schedule -/

/-- 40_round_function.md R108 with R102, and the frame of a diagnostic command. -/
def Obligations.ExpandWritesTheWiredBits : Prop :=
  ∀ s : State, s.Executing .expand →
    ∃ t, exec .expand s = .next t ∧
      (∀ p, p < 8 → t.res.getLsbD p = s.da.getLsbD ([0, 1, 3, 2, 3, 2, 4, 5].getD p 0)) ∧
      t.res.extractLsb' 8 4 = 0#4 ∧ Completed t ∧ DiagFrame s t ∧ IssuedAndReported .expand 0x00000008 t

/-- 40_round_function.md R109, and the frame. -/
def Obligations.SboxReadsBothTables : Prop :=
  ∀ s : State, s.Executing .sbox →
    ∃ t, exec .sbox s = .next t ∧
      t.res.extractLsb' 3 3 = lookup s.params.sbox1 (s.da.extractLsb' 4 4) ∧
      t.res.extractLsb' 0 3 = lookup s.params.sbox2 (s.da.extractLsb' 0 4) ∧
      t.res.extractLsb' 6 6 = 0#6 ∧ Completed t ∧ DiagFrame s t ∧ IssuedAndReported .sbox 0x00000009 t

/-- 40_round_function.md R110 with R103–R105: x = E(DA[5:0]) XOR DB, with E in R102's own expression. -/
def Obligations.FEvalMixesExpandsAndSubstitutes : Prop :=
  ∀ s : State, s.Executing .fEval →
    ∃ t x, exec .fEval s = .next t ∧
      x = (BitVec.ofBool (s.da.getLsbD 5) ++ BitVec.ofBool (s.da.getLsbD 4) ++ BitVec.ofBool (s.da.getLsbD 2) ++
        BitVec.ofBool (s.da.getLsbD 3) ++ BitVec.ofBool (s.da.getLsbD 2) ++ BitVec.ofBool (s.da.getLsbD 3) ++
        BitVec.ofBool (s.da.getLsbD 1) ++ BitVec.ofBool (s.da.getLsbD 0)) ^^^ s.db ∧
      t.res.extractLsb' 3 3 = lookup s.params.sbox1 (x.extractLsb' 4 4) ∧
      t.res.extractLsb' 0 3 = lookup s.params.sbox2 (x.extractLsb' 0 4) ∧
      t.res.extractLsb' 6 6 = 0#6 ∧ Completed t ∧ DiagFrame s t ∧ IssuedAndReported .fEval 0x0000000A t

/-- 40_round_function.md R109, corner case: SBOX of E(r) XOR k is F_EVAL of r and k. -/
def Obligations.SboxOfTheMixedValueIsFEval : Prop :=
  ∀ (s u : State), s.Executing .fEval → u.Executing .sbox → u.params = s.params →
    u.da.extractLsb' 0 8 = expandHalf (s.da.extractLsb' 0 6) ^^^ s.db →
    ∃ t v, exec .fEval s = .next t ∧ exec .sbox u = .next v ∧ v.res = t.res

/-- 41_key_schedule.md R131 with R121–R126, in arithmetic on naturals: i' = DA mod 10, the low 10 − i' bits of KEY
shifted by i' − 2, OR the bits of KEY above bit 10 − i', mod 256. -/
def Obligations.KsEvalWritesTheSubkey : Prop :=
  ∀ s : State, s.Executing .ksEval →
    ∃ t low rotated, exec .ksEval s = .next t ∧
      low = s.key.toNat % 2 ^ (10 - s.da.toNat % 10) ∧
      rotated = (if s.da.toNat % 10 < 2 then low / 2 ^ (2 - s.da.toNat % 10) else low * 2 ^ (s.da.toNat % 10 - 2)) ∧
      t.res.toNat = (rotated ||| s.key.toNat / 2 ^ (11 - s.da.toNat % 10)) % 256 ∧
      Completed t ∧ DiagFrame s t ∧ IssuedAndReported .ksEval 0x0000000B t

/-- 41_key_schedule.md R127: the subkeys repeat with period 10 in the round index, from 0 on. -/
def Obligations.SubkeysRepeatWithPeriodTen : Prop :=
  ∀ (key : BitVec 32) (i n : Nat), subkey key (i + 10 * n) = subkey key i

/-- 41_key_schedule.md R128: for a key below 512 each subkey is a selection of the key's bits. -/
def Obligations.NarrowKeySubkeySelectsKeyBits : Prop :=
  ∀ (key : BitVec 32) (i : Nat), key.toNat < 512 →
    (i % 10 = 0 → ∀ b, b < 8 → (subkey key i).getLsbD b = (decide (b < 7) && key.getLsbD (b + 2))) ∧
    (i % 10 = 1 → ∀ b, b < 8 → (subkey key i).getLsbD b = key.getLsbD (b + 1)) ∧
    (2 ≤ i % 10 → ∀ b, b < 8 → (subkey key i).getLsbD b =
      (if b < i % 10 - 2 then key.getLsbD (11 - i % 10 + b) else key.getLsbD (b - (i % 10 - 2))))

/-- 41_key_schedule.md R126: for a key below 512 the truncation changes nothing. -/
def Obligations.NarrowKeyNeedsNoTruncation : Prop :=
  ∀ (key i : Nat), key < 512 → subkeyRaw key i < 256

/-! ### Block packer -/

/-- 20_memory.md R65 and 42_block_packer.md R140, R141: group g, the bytes 3g to 3g+2, gives the blocks 2g and 2g+1; the
earlier byte supplies the more significant bits and the earlier block holds them: the 24-bit value is kept. -/
def Obligations.PackingKeepsTheGroupValue : Prop :=
  ∀ (bytes : List Byte) (g : Nat), bytes.length % 3 = 0 → g < bytes.length / 3 →
    (bytesToBlocks bytes).length = 2 * (bytes.length / 3) ∧
    (bytesToBlocks bytes).getD (2 * g) 0 ++ (bytesToBlocks bytes).getD (2 * g + 1) 0 =
      bytes.getD (3 * g) 0 ++ bytes.getD (3 * g + 1) 0 ++ bytes.getD (3 * g + 2) 0

/-- 42_block_packer.md R143: the two maps are inverse to each other on whole groups, and both are the identity on the
24-bit value of a group. -/
def Obligations.PackerMapsAreInverse : Prop :=
  (∀ bytes : List Byte, bytes.length % 3 = 0 → blocksToBytes (bytesToBlocks bytes) = bytes) ∧
  (∀ blocks : List Block, blocks.length % 2 = 0 → bytesToBlocks (blocksToBytes blocks) = blocks) ∧
  (∀ b0 b1 b2 : Byte, packFirst b0 b1 ++ packSecond b1 b2 = b0 ++ b1 ++ b2) ∧
  (∀ k0 k1 : Block, unpackFirst k0 ++ unpackSecond k0 k1 ++ unpackThird k1 = k0 ++ k1)

/-! ### Feistel rounds and block transforms -/

/-- 43_mode_engine.md R167: the two rounds undo each other, for every table and subkey. -/
def Obligations.RoundsUndoEachOther : Prop :=
  ∀ (p : Params) (b : Block) (k : Subkey), decRound p (encRound p b k) k = b ∧ encRound p (decRound p b k) k = b

/-- 43_mode_engine.md R170: the two block transforms undo each other, for every key and round count. -/
def Obligations.BlockTransformsUndoEachOther : Prop :=
  ∀ (p : Params) (key : BitVec 32) (n : Nat) (b : Block),
    decBlock p key n (encBlock p key n b) = b ∧ encBlock p key n (decBlock p key n b) = b

/-- 43_mode_engine.md R181 with R168: rounds 1 to ROUNDS in ascending order, and the frame. -/
def Obligations.BlkEncAppliesTheRoundsAscending : Prop :=
  ∀ s : State, s.Executing .blkEnc →
    ∃ t, exec .blkEnc s = .next t ∧
      t.res = (List.range s.rounds.toNat).foldl (fun b j => encRound s.params b (subkey s.key (j + 1)))
        (s.da.extractLsb' 0 12) ∧
      Completed t ∧ DiagFrame s t ∧ IssuedAndReported .blkEnc 0x0000000C t

/-- 43_mode_engine.md R182 with R169: rounds ROUNDS down to 1, and the frame. -/
def Obligations.BlkDecAppliesTheRoundsDescending : Prop :=
  ∀ s : State, s.Executing .blkDec →
    ∃ t, exec .blkDec s = .next t ∧
      t.res = (List.range s.rounds.toNat).foldr (fun j b => decRound s.params b (subkey s.key (j + 1)))
        (s.da.extractLsb' 0 12) ∧
      Completed t ∧ DiagFrame s t ∧ IssuedAndReported .blkDec 0x0000000D t

/-- 43_mode_engine.md R182, corner case: BLK_DEC of BLK_ENC's RES returns the original DA[11:0]. -/
def Obligations.BlkDecReturnsTheBlockOfBlkEnc : Prop :=
  ∀ s : State, s.Executing .blkEnc →
    ∃ t, exec .blkEnc s = .next t ∧
      ∀ u : State, u.Executing .blkDec → u.params = s.params → u.key = s.key → u.rounds = s.rounds →
        u.da.extractLsb' 0 12 = t.res →
        ∃ v, exec .blkDec u = .next v ∧ v.res = s.da.extractLsb' 0 12

/-! ### Data commands -/

/-- 43_mode_engine.md R173, and the frame of a data command. -/
def Obligations.EcbEncEncryptsEachBlock : Prop :=
  ∀ (s : State) (bytes : List Byte), s.Executing .ecbEnc → s.HoldsIn bytes →
    ∃ t cipher, exec .ecbEnc s = .next t ∧ cipher.length = 2 * (s.len.toNat / 3) ∧
      (∀ i, i < cipher.length →
        cipher.getD i 0 = encBlock s.params s.key s.rounds.toNat ((bytesToBlocks bytes).getD i 0)) ∧
      (blocksToBytes cipher).length = s.len.toNat ∧ t.HoldsOut (blocksToBytes cipher) ∧
      Completed t ∧ DataFrame s t ∧ IssuedAndReported .ecbEnc 0x00000000 t

/-- 43_mode_engine.md R174, and the frame. -/
def Obligations.EcbDecDecryptsEachBlock : Prop :=
  ∀ (s : State) (bytes : List Byte), s.Executing .ecbDec → s.HoldsIn bytes →
    ∃ t plain, exec .ecbDec s = .next t ∧ plain.length = 2 * (s.len.toNat / 3) ∧
      (∀ i, i < plain.length →
        plain.getD i 0 = decBlock s.params s.key s.rounds.toNat ((bytesToBlocks bytes).getD i 0)) ∧
      (blocksToBytes plain).length = s.len.toNat ∧ t.HoldsOut (blocksToBytes plain) ∧
      Completed t ∧ DataFrame s t ∧ IssuedAndReported .ecbDec 0x00000001 t

/-- 43_mode_engine.md R175, and the frame. -/
def Obligations.CbcEncChainsTheCiphertext : Prop :=
  ∀ (s : State) (bytes : List Byte), s.Executing .cbcEnc → s.HoldsIn bytes →
    ∃ t cipher, exec .cbcEnc s = .next t ∧
      IsCbcChain (encBlock s.params s.key s.rounds.toNat) s.iv (bytesToBlocks bytes) cipher ∧
      (blocksToBytes cipher).length = s.len.toNat ∧ t.HoldsOut (blocksToBytes cipher) ∧
      Completed t ∧ DataFrame s t ∧ IssuedAndReported .cbcEnc 0x00000002 t

/-- 43_mode_engine.md R176, and the frame: the XOR is against the original ciphertext of the block before. -/
def Obligations.CbcDecChainsTheOriginalCiphertext : Prop :=
  ∀ (s : State) (bytes : List Byte), s.Executing .cbcDec → s.HoldsIn bytes →
    ∃ t plain, exec .cbcDec s = .next t ∧ plain.length = 2 * (s.len.toNat / 3) ∧
      (∀ i, i < plain.length →
        plain.getD i 0 = decBlock s.params s.key s.rounds.toNat ((bytesToBlocks bytes).getD i 0) ^^^
          (if i = 0 then s.iv else (bytesToBlocks bytes).getD (i - 1) 0)) ∧
      (blocksToBytes plain).length = s.len.toNat ∧ t.HoldsOut (blocksToBytes plain) ∧
      Completed t ∧ DataFrame s t ∧ IssuedAndReported .cbcDec 0x00000003 t

/-- 43_mode_engine.md R177, and the frame: the counter is (IV + i) mod 4096. -/
def Obligations.CtrEncXorsTheKeystream : Prop :=
  ∀ (s : State) (bytes : List Byte), s.Executing .ctrEnc → s.HoldsIn bytes →
    ∃ t out, exec .ctrEnc s = .next t ∧ out.length = 2 * (s.len.toNat / 3) ∧
      (∀ i, i < out.length →
        out.getD i 0 = (bytesToBlocks bytes).getD i 0 ^^^
          encBlock s.params s.key s.rounds.toNat (BitVec.ofNat 12 ((s.iv.toNat + i) % 4096))) ∧
      (blocksToBytes out).length = s.len.toNat ∧ t.HoldsOut (blocksToBytes out) ∧
      Completed t ∧ DataFrame s t ∧ IssuedAndReported .ctrEnc 0x00000004 t

/-- 43_mode_engine.md R178, and the frame: the same keystream, in the encryption direction. -/
def Obligations.CtrDecXorsTheSameKeystream : Prop :=
  ∀ (s : State) (bytes : List Byte), s.Executing .ctrDec → s.HoldsIn bytes →
    ∃ t out, exec .ctrDec s = .next t ∧ out.length = 2 * (s.len.toNat / 3) ∧
      (∀ i, i < out.length →
        out.getD i 0 = (bytesToBlocks bytes).getD i 0 ^^^
          encBlock s.params s.key s.rounds.toNat (BitVec.ofNat 12 ((s.iv.toNat + i) % 4096))) ∧
      (blocksToBytes out).length = s.len.toNat ∧ t.HoldsOut (blocksToBytes out) ∧
      Completed t ∧ DataFrame s t ∧ IssuedAndReported .ctrDec 0x00000005 t

/-- 60_exceptions.md R207, second case: a data command over entries with no value still completes and writes all of
`OUT[0..LEN−1]`, and each such entry is recorded. -/
def Obligations.DataCommandCompletesOverUnwrittenInput : Prop :=
  ∀ (i : Instr) (s : State), i.isData = true → s.Executing i →
    ∃ t, exec i s = .next t ∧ (∀ k, k < s.len.toNat → (t.outBuf.read k).isSome = true) ∧
      (∀ k, k < s.len.toNat → s.inBuf.read k = none → Fault.uninit (inAddr k) ∈ t.recorded) ∧
      Completed t ∧ DataFrame s t

/-- 43_mode_engine.md R171 and R173, R174, corner case: with ROUNDS = 0 both ECB commands copy IN to OUT. -/
def Obligations.ZeroRoundsEcbCopiesInToOut : Prop :=
  ∀ (i : Instr) (s : State) (bytes : List Byte), i = .ecbEnc ∨ i = .ecbDec → s.Executing i → s.rounds = 0 →
    s.HoldsIn bytes → ∃ t, exec i s = .next t ∧ t.HoldsOut bytes

/-- 43_mode_engine.md R180, last item, with R179: decrypting the encryption with the same parameters returns the
input, for ECB, CBC and CTR, and CTR encryption undoes itself. -/
def Obligations.DecryptionReturnsThePlaintext : Prop :=
  ∀ (enc dec : Instr) (s : State) (bytes : List Byte),
    (enc, dec) ∈ [(Instr.ecbEnc, Instr.ecbDec), (.cbcEnc, .cbcDec), (.ctrEnc, .ctrDec), (.ctrEnc, .ctrEnc),
      (.ctrDec, .ctrDec)] →
    s.Executing enc → s.HoldsIn bytes →
    ∃ t, exec enc s = .next t ∧
      ∀ u : State, u.Executing dec → u.params = s.params → u.key = s.key → u.rounds = s.rounds → u.iv = s.iv →
        u.len = s.len → (∀ k, k < s.len.toNat → u.inBuf.read k = t.outBuf.read k) →
        ∃ v, exec dec u = .next v ∧ v.HoldsOut bytes

/-- 43_mode_engine.md R180, first two items: under ECB equal input blocks give equal output blocks, and two inputs
that differ only in block k give outputs that differ in block k only. -/
def Obligations.EcbBlocksAreIndependent : Prop :=
  ∀ (i : Instr) (s u : State) (bytes bytes' : List Byte), i = .ecbEnc ∨ i = .ecbDec →
    s.Executing i → u.Executing i → SameParameters s u → s.HoldsIn bytes → u.HoldsIn bytes' →
    ∃ t v out out', exec i s = .next t ∧ exec i u = .next v ∧
      out.length = 2 * (s.len.toNat / 3) ∧ out'.length = 2 * (s.len.toNat / 3) ∧
      t.HoldsOut (blocksToBytes out) ∧ v.HoldsOut (blocksToBytes out') ∧
      (∀ a b, a < out.length → b < out.length →
        (bytesToBlocks bytes).getD a 0 = (bytesToBlocks bytes).getD b 0 → out.getD a 0 = out.getD b 0) ∧
      (∀ a, a < out.length →
        ((bytesToBlocks bytes).getD a 0 = (bytesToBlocks bytes').getD a 0 ↔ out.getD a 0 = out'.getD a 0))

/-- 43_mode_engine.md R180, third item, for inputs that differ in one block: under CBC_ENC two inputs that differ in
block k alone (the rule's proof takes the later blocks as equal) give outputs equal before k and different in every
block from k on. -/
def Obligations.CbcDifferenceReachesEveryLaterBlock : Prop :=
  ∀ (s u : State) (bytes bytes' : List Byte) (k : Nat),
    s.Executing .cbcEnc → u.Executing .cbcEnc → SameParameters s u → s.HoldsIn bytes → u.HoldsIn bytes' →
    k < 2 * (s.len.toNat / 3) →
    (bytesToBlocks bytes).getD k 0 ≠ (bytesToBlocks bytes').getD k 0 →
    (∀ j, j ≠ k → (bytesToBlocks bytes).getD j 0 = (bytesToBlocks bytes').getD j 0) →
    ∃ t v out out', exec .cbcEnc s = .next t ∧ exec .cbcEnc u = .next v ∧
      out.length = 2 * (s.len.toNat / 3) ∧ out'.length = 2 * (s.len.toNat / 3) ∧
      t.HoldsOut (blocksToBytes out) ∧ v.HoldsOut (blocksToBytes out') ∧
      (∀ j, j < k → out.getD j 0 = out'.getD j 0) ∧
      (∀ j, k ≤ j → j < out.length → out.getD j 0 ≠ out'.getD j 0)

/-- 43_mode_engine.md R164: the exact number of round-function evaluations of each command, tied to `exec`. The counted
list is what the result rests on: tables whose f agrees on every pair of it give an equal result (SBOX makes no
evaluation of f and reads the tables directly, 40_round_function.md R109: for it the look-ups must agree), and tables
whose f agrees on every pair but the last, and differs there, give another one. -/
def Obligations.CommandsEvaluateTheRoundFunctionExactlyAsOften : Prop :=
  ∀ (i : Instr) (s : State), s.Executing i →
    (commandEvals i s).length =
      (if i.isData then 2 * (s.len.toNat / 3) * s.rounds.toNat
      else if i = .blkEnc ∨ i = .blkDec then s.rounds.toNat
      else if i = .fEval then 1
      else 0) ∧
    (∀ q : Params, (∀ e ∈ commandEvals i s, roundF q e.1 e.2 = roundF s.params e.1 e.2) →
      (i = .sbox → substitute q s.operandMixed = substitute s.params s.operandMixed) →
      ∃ t v, exec i s = .next t ∧ exec i { s with params := q } = .next v ∧ v.outBuf = t.outBuf ∧ v.res = t.res) ∧
    (∀ (q : Params) (before : List (Half × Subkey)) (last : Half × Subkey), commandEvals i s = before ++ [last] →
      (∀ e ∈ before, roundF q e.1 e.2 = roundF s.params e.1 e.2) →
      roundF q last.1 last.2 ≠ roundF s.params last.1 last.2 →
      ∃ t v, exec i s = .next t ∧ exec i { s with params := q } = .next v ∧
        (if i.isData then v.outBuf ≠ t.outBuf else v.res ≠ t.res))

/-- 43_mode_engine.md R163: a command's result depends on its OP, KEY, ROUNDS, IV, LEN, DA, DB, `IN[0..LEN−1]` and the
tables only: two cores that agree on these at acceptance, and differ in anything else, write equal results. -/
def Obligations.ResultDependsOnTheCommandInputsOnly : Prop :=
  ∀ (i : Instr) (s u : State) (bytes : List Byte), s.Ready → u.Ready → (i.isData = true → s.LenLegal) →
    SameParameters s u → (i.isData = true → s.HoldsIn bytes ∧ u.HoldsIn bytes) →
    ∃ t v, exec i (s.acceptCommand (encode i)) = .next t ∧ exec i (u.acceptCommand (encode i)) = .next v ∧
      (i.isData = true → ∀ k, k < s.len.toNat → t.outBuf.read k = v.outBuf.read k) ∧
      (i.isData = false → t.res = v.res)

/-! ### Acceptance, errors and the bus -/

/-- 43_mode_engine.md R160: a legal command issued while BUSY = 0 starts. Its OP is latched, STATUS shows BUSY alone,
and the registers and buffers keep their values; BLK takes the packed input (10_state.md R43): in this
step, which is the model's choice (notes/assumptions/4.md); the response is the model's field (10.md). -/
def Obligations.LegalCommandStarts : Prop :=
  ∀ (i : Instr) (s : State) (rest : List Input), s.Ready → (i.isData = true → s.LenLegal) →
    s.inputs = wr .cmd (encode i) :: rest →
    ∃ t, step s = .next t ∧ t.opr = i.opcode ∧ t.phase = .busy ∧
      t.status = { busy := true, done := false, err := false, ovr := false, errCode := 0 } ∧
      SameStore s t ∧ t.inputs = rest ∧ t.rsp = some .written ∧ t.Executing i ∧
      (i.isData = true → ∀ bytes, s.HoldsIn bytes → t.blk = bytesToBlocks bytes ∧ t.recorded = s.recorded)

/-- 60_exceptions.md R209 and R210 with R202–R204: the first failing check of a command word gives the error code, and
nothing but STATUS changes. That the bus answers this write normally is the model's (notes/assumptions/10.md). -/
def Obligations.RefusedCommandChangesOnlyStatus : Prop :=
  ∀ (w : Word) (s : State) (rest : List Input) (code : BitVec 4), s.Ready →
    s.inputs = .access (.write 0x0000#16 32 w) :: rest →
    ((code = 1#4 ∧ (16 ≤ w.toNat ∨ w.toNat ∈ [0x6, 0x7, 0xE, 0xF])) ∨
      (code = 2#4 ∧ w.toNat ≤ 5 ∧ s.params.bufBytes < s.len.toNat) ∨
      (code = 3#4 ∧ w.toNat ≤ 5 ∧ s.len.toNat ≤ s.params.bufBytes ∧ s.len.toNat % 3 ≠ 0)) →
    step s = .next { s with
      status := { busy := false, done := true, err := true, ovr := false, errCode := code }
      inputs := rest
      rsp := some .written }

/-- 10_state.md R23 and 60_exceptions.md R205: while BUSY a write to a writable location sets OVR and does nothing
else. That the bus answers it normally is the model's (notes/assumptions/10.md). -/
def Obligations.WriteWhileBusyOnlySetsOverrun : Prop :=
  ∀ (s : State) (loc : Location) (data : Word) (rest : List Input), s.Inv → s.status.busy = true →
    loc.writable = true → loc.exists s.params → s.inputs = wr loc data :: rest →
    step s = .next { s with
      status := { s.status with ovr := true }
      inputs := rest
      rsp := some .written }

/-- 10_state.md R22: a write to a read-only location changes nothing and gets a normal response, BUSY or not; a read of
the write-only location CMD returns 0. -/
def Obligations.ReadOnlyLocationsIgnoreWrites : Prop :=
  ∀ (s : State) (rest : List Input), s.resetLine = false →
    (∀ loc data, loc.writable = false → loc.exists s.params → s.inputs = wr loc data :: rest →
      step s = .next { s with inputs := rest, rsp := some .written }) ∧
    (s.inputs = rd .cmd :: rest → ∃ t, step s = .next t ∧ t.rsp = some (.data 0#32))

/-- 10_state.md R21: a write stores `data[W−1:0]` in its register alone, and a read returns the field
zero-extended. -/
def Obligations.RegistersStoreTheirFieldAndReadItBack : Prop :=
  ∀ (s : State) (loc : Location) (W : Nat) (data : Word) (rest : List Input), s.Ready →
    registerWidth s.params loc = some W → s.inputs = wr loc data :: rd loc :: rest →
    ∃ t u, step s = .next t ∧ step t = .next u ∧ u.rsp = some (.data (BitVec.ofNat 32 (data.toNat % 2 ^ W))) ∧
      u.inputs = rest ∧ u.status = s.status ∧ u.phase = s.phase ∧ u.opr = s.opr ∧ u.params = s.params ∧
      u.inBuf = s.inBuf ∧ u.outBuf = s.outBuf ∧ u.res = s.res ∧ u.blk = s.blk ∧ u.cblk = s.cblk ∧
      (loc ≠ .key → u.key = s.key) ∧ (loc ≠ .rounds → u.rounds = s.rounds) ∧ (loc ≠ .iv → u.iv = s.iv) ∧
      (loc ≠ .len → u.len = s.len) ∧ (loc ≠ .da → u.da = s.da) ∧ (loc ≠ .db → u.db = s.db)

/-- 20_memory.md R64, with R68: a write to `IN[k]` stores `data[7:0]` in that entry alone (no other entry, no register,
no flag and no engine state changes), and a read returns it with bits 31:8 zero; so does a read of an OUT entry. The
response and the host's own copy of the data are the model's fields (notes/assumptions/10.md). -/
def Obligations.InEntriesStoreOneByte : Prop :=
  ∀ (s : State) (k : Nat) (rest : List Input), s.Ready → k < s.params.bufBytes →
    (∀ data, s.inputs = wr (.inEntry k) data :: rd (.inEntry k) :: rest →
      ∃ t u, step s = .next t ∧ step t = .next u ∧
        t = { s with inputs := rd (.inEntry k) :: rest, inBuf := t.inBuf, rsp := t.rsp } ∧
        t.inBuf.read k = some (BitVec.ofNat 8 data.toNat) ∧ (∀ j, j ≠ k → t.inBuf.read j = s.inBuf.read j) ∧
        u = { t with inputs := rest, rsp := u.rsp, lastRead := u.lastRead } ∧
        u.rsp = some (.data (BitVec.ofNat 32 (data.toNat % 256)))) ∧
    (∀ b, s.outBuf.read k = some b → s.inputs = rd (.outEntry k) :: rest →
      ∃ t, step s = .next t ∧ t.rsp = some (.data (BitVec.ofNat 32 b.toNat)))

/-- 10_state.md R25: a read of STATUS returns its fields in their places with bits 31:8 zero, and has no side effect: what
changes is the response and the host's own copy of the data, the model's fields (notes/assumptions/10.md). -/
def Obligations.StatusReadsAsLaidOut : Prop :=
  ∀ (s : State) (rest : List Input), s.resetLine = false → s.inputs = rd .status :: rest →
    ∃ t v, step s = .next t ∧ t = { s with inputs := rest, rsp := some (.data v), lastRead := v } ∧
      v.getLsbD 0 = s.status.busy ∧ v.getLsbD 1 = s.status.done ∧ v.getLsbD 2 = s.status.err ∧
      v.getLsbD 3 = s.status.ovr ∧ v.extractLsb' 4 4 = s.status.errCode ∧ v.extractLsb' 8 24 = 0#24

/-- 60_exceptions.md R206 with 20_memory.md R61–R63: an access is refused exactly when it is not 32 bits wide, is
misaligned or goes to a reserved address, and then nothing but the response changes. -/
def Obligations.BusErrorHasNoEffect : Prop :=
  ∀ (s : State) (a : Access) (rest : List Input), s.resetLine = false → s.inputs = .access a :: rest →
    (Refused s.params a → step s = .next { s with inputs := rest, rsp := some (.busError a.addr) }) ∧
    (¬ Refused s.params a → ∀ t, step s = .next t → t.rsp ≠ some (.busError a.addr))

/-- 20_memory.md R68: a read has no side effect. What may change is the response, the host's own copy of the data and
the model's counter of free values. -/
def Obligations.ReadsHaveNoSideEffect : Prop :=
  ∀ (s t : State) (addr : Addr) (width : Nat) (rest : List Input), s.inputs = .access (.read addr width) :: rest →
    step s = .next t →
    t = { s with inputs := rest, rsp := t.rsp, lastRead := t.lastRead, draws := t.draws }

/-- 20_memory.md R70: while BUSY a read of RES or of any OUT entry, written or not, returns data with the bits above
the field 0 and changes no state of the core: of the model's own fields the response, the host's copy of the data and
the counter of free values may change. The value itself is free: the statement says nothing of it. -/
def Obligations.ResultReadsWhileBusyComplete : Prop :=
  ∀ (s : State) (rest : List Input), s.Inv → s.status.busy = true →
    (s.inputs = rd .res :: rest →
      ∃ t v, step s = .next t ∧ t.rsp = some (.data v) ∧ v.toNat < 2 ^ 12 ∧
        t = { s with inputs := rest, rsp := t.rsp, lastRead := t.lastRead, draws := t.draws }) ∧
    (∀ k, k < s.params.bufBytes → s.inputs = rd (.outEntry k) :: rest →
      ∃ t v, step s = .next t ∧ t.rsp = some (.data v) ∧ v.toNat < 2 ^ 8 ∧
        t = { s with inputs := rest, rsp := t.rsp, lastRead := t.lastRead, draws := t.draws })

/-- 20_memory.md R79: a host read of an IN or OUT entry returns its byte, and it is the fault Uninit exactly when no
write has reached the entry since reset (an OUT entry is read here while BUSY = 0). That the run stops at that fault
is the model's reading of R207 (notes/assumptions/8.md). -/
def Obligations.UnwrittenEntryReadFaults : Prop :=
  ∀ (s : State) (k : Nat) (rest : List Input), s.resetLine = false → k < s.params.bufBytes →
    (s.inputs = rd (.inEntry k) :: rest →
      (s.inBuf.read k = none → step s = .fault (.uninit (inAddr k))) ∧
      (∀ b, s.inBuf.read k = some b → ∃ t, step s = .next t ∧ t.rsp = some (.data (b.setWidth 32)))) ∧
    (s.inputs = rd (.outEntry k) :: rest → s.status.busy = false →
      (s.outBuf.read k = none → step s = .fault (.uninit (outAddr k))) ∧
      (∀ b, s.outBuf.read k = some b → ∃ t, step s = .next t ∧ t.rsp = some (.data (b.setWidth 32))))

/-! ### The step, the engine and the whole machine -/

/-- A step runs the decoded command: with the engine BUSY and its turn come (no input left, or the turn stands first),
a step is `exec` of the command OPR holds, on the state with that input taken. -/
def Obligations.StepExecutesTheCommandInOpr : Prop :=
  ∀ (s : State) (i : Instr) (rest : List Input), s.phase = .busy → decode (0#28 ++ s.opr) = .ok i →
    (s.inputs = [] ∧ rest = [] ∨ s.inputs = .engine :: rest) →
    step s = exec i { s with inputs := rest }

/-- A command issued and then executed: from a ready core with the command's write first and the engine's turn
second, two steps complete it, and the second is `exec` of it. -/
def Obligations.IssuedCommandIsExecutedAndCompletes : Prop :=
  ∀ (i : Instr) (s : State) (rest : List Input), s.Ready → (i.isData = true → s.LenLegal) →
    s.inputs = wr .cmd (encode i) :: .engine :: rest →
    ∃ t u, step s = .next t ∧ step t = .next u ∧ exec i { t with inputs := rest } = .next u ∧
      u.status = { busy := false, done := true, err := false, ovr := false, errCode := 0 } ∧ u.phase = .idle ∧
      u.inputs = rest

/-- The placed command word: a step from `withFetchWord` of a legal command's word is `exec` of that command. -/
def Obligations.PlacedCommandIsExecuted : Prop :=
  ∀ (i : Instr) (s : State), (i.isData = true → s.LenLegal) →
    ∃ t, t.opr = i.opcode ∧ t.inputs = s.inputs ∧ SameStore s t ∧
      step (s.withFetchWord 32 (encode i).toNat) = exec i t ∧ ∃ u, exec i t = .next u ∧ u.phase = .idle

/-- 30_encoding.md R89, `wait`: while a command runs, each poll of STATUS before the completion shows BUSY = 1 and
DONE = 0, and the poll after it shows BUSY = 0, DONE = 1 and ERR = 0. The number of polls is any. -/
def Obligations.WaitEndsOnTheReadThatShowsDone : Prop :=
  ∀ (i : Instr) (s : State) (polls : Nat) (rest : List Input), s.Executing i → s.inputs = wait polls ++ rest →
    (∀ n, 1 ≤ n → n ≤ polls → ∃ t v, core.run n s = .next t ∧ t.rsp = some (.data v) ∧
      v.getLsbD 0 = true ∧ v.getLsbD 1 = false) ∧
    ∃ t v, core.run (polls + 2) s = .next t ∧ t.rsp = some (.data v) ∧
      v.getLsbD 0 = false ∧ v.getLsbD 1 = true ∧ v.getLsbD 2 = false ∧ t.inputs = rest

/-- 30_encoding.md R89, `copy`: reading OUT[k] and writing the value read to IN[k] moves the byte, and no other entry
of IN changes. -/
def Obligations.CopyMovesAnOutByteToIn : Prop :=
  ∀ (s : State) (k : Nat) (b : Byte) (rest : List Input), s.Ready → k < s.params.bufBytes →
    s.outBuf.read k = some b → s.inputs = rd (.outEntry k) :: .writeRead (inAddr k) :: rest →
    ∃ t u, step s = .next t ∧ step t = .next u ∧ u.inBuf.read k = some b ∧
      (∀ j, j ≠ k → u.inBuf.read j = s.inBuf.read j) ∧ u.outBuf = s.outBuf ∧ u.status = s.status

/-- 20_memory.md R72: between acceptance and completion no host access changes KEY, ROUNDS, IV, LEN, DA, DB or IN,
and none stops the command. -/
def Obligations.InputsAreStableDuringACommand : Prop :=
  ∀ (i : Instr) (s t : State) (x : Input) (rest : List Input), s.Executing i → s.inputs = x :: rest →
    x ≠ .engine → (∀ b, x ≠ .reset b) → step s = .next t →
    SameStore s t ∧ t.blk = s.blk ∧ t.cblk = s.cblk ∧ t.Executing i

/-- 20_memory.md R71: once a command has completed, its results stay until the next command is accepted: no step
from an idle core changes OUT or RES, unless it asserts reset. -/
def Obligations.ResultsStayUntilTheNextCommand : Prop :=
  ∀ s t : State, s.Inv → s.phase = .idle → (∀ rest, s.inputs ≠ .reset true :: rest) → step s = .next t →
    t.outBuf = s.outBuf ∧ t.res = s.res

/-- 10_state.md R40: no command, no host access and no reset changes S1 or S2, nor the widths of the implementation. -/
def Obligations.StepKeepsTheTables : Prop :=
  ∀ s t : State, step s = .next t → t.params = s.params

/-- 70_reset_and_hazards.md R230, with R232: asserting reset, from any state, also during a command; what host accesses
do while it is asserted; and how the core leaves it. OPR, BLK and CBLK are unspecified there and not stated here. -/
def Obligations.ResetClearsTheCore : Prop :=
  ∀ (s : State) (rest : List Input),
    (s.inputs = .reset true :: rest →
      ∃ t, step s = .next t ∧
        t.status = { busy := false, done := false, err := false, ovr := false, errCode := 0 } ∧
        t.key = 0 ∧ t.rounds = 0 ∧ t.iv = 0 ∧ t.len = 0 ∧ t.da = 0 ∧ t.db = 0 ∧ t.res = 0 ∧ t.phase = .idle ∧
        t.params = s.params ∧ ∀ k, t.inBuf.read k = none ∧ t.outBuf.read k = none) ∧
    (s.Inv → s.resetLine = true →
      (∀ x, s.inputs = x :: rest → (∀ b, x ≠ .reset b) → ∃ r, step s = .next { s with inputs := rest, rsp := r }) ∧
      (s.inputs = .reset false :: rest → ∃ t, step s = .next t ∧ t.Ready))

/-- The invariant holds at reset. -/
def Obligations.InvariantHoldsAtReset : Prop := State.reset.Inv

/-- Every step keeps the invariant. -/
def Obligations.StepKeepsTheInvariant : Prop :=
  ∀ s t : State, s.Inv → step s = .next t → t.Inv

/-- From a sound state a step never refuses, and it faults only where 60_exceptions.md R207's first case says: on a
host read of an IN or OUT entry that holds no value, where the run stops (notes/assumptions/8.md). -/
def Obligations.StepStopsOnlyOnAnUnwrittenRead : Prop :=
  ∀ s : State, s.Inv →
    (∀ r, step s ≠ .refused r) ∧
    (∀ f, step s = .fault f →
      ∃ k rest, (s.inputs = rd (.inEntry k) :: rest ∧ s.inBuf.read k = none ∧ f = .uninit (inAddr k)) ∨
        (s.inputs = rd (.outEntry k) :: rest ∧ s.outBuf.read k = none ∧ f = .uninit (outAddr k)))

/-- 43_mode_engine.md R162 and 70_reset_and_hazards.md R231, R240: no command runs for ever, and one that reset does not
abandon completes. From a sound state the machine is idle once its inputs are used up and the engine has had one more
turn (the model's form of weak fairness, notes/assumptions/3.md), unless it stops at the read of an unwritten entry on
the way (notes/assumptions/8.md). Where no input asserts reset and a command is running, or one has completed,
STATUS.DONE is then 1: the command running has completed, and so has every one issued after it. -/
def Obligations.EveryCommandCompletes : Prop :=
  ∀ s : State, s.Inv →
    (∃ t, core.run (s.inputs.length + 1) s = .next t ∧ t.phase = .idle ∧ t.inputs = [] ∧ t.Inv ∧
      (Input.reset true ∉ s.inputs → s.status.busy = true ∨ s.status.done = true → t.status.done = true)) ∨
    (∃ a, core.run (s.inputs.length + 1) s = .fault (.uninit a))

/-- 10_state.md R21, R36 and 20_memory.md R71: a host read of KEY, ROUNDS, IV, LEN, DA or DB at any time out of reset,
also while a command runs, and one of RES while BUSY = 0, returns the stored field zero-extended and changes no state
of the core. The response and the host's own copy of the data are the model's fields (notes/assumptions/10.md). -/
def Obligations.RegisterReadsReturnTheStoredField : Prop :=
  ∀ (s : State) (loc : Location) (field : Nat) (rest : List Input), s.resetLine = false →
    (loc, field) ∈ [(Location.key, s.key.toNat), (.rounds, s.rounds.toNat), (.iv, s.iv.toNat), (.len, s.len.toNat),
        (.da, s.da.toNat), (.db, s.db.toNat)] ∨
      (loc = .res ∧ field = s.res.toNat ∧ s.status.busy = false) →
    s.inputs = rd loc :: rest →
    step s = .next { s with
      inputs := rest
      rsp := some (.data (BitVec.ofNat 32 field))
      lastRead := BitVec.ofNat 32 field }

/-- 43_mode_engine.md R162 with 20_memory.md R71: the host gets a command's result. With the engine's turn first and a
read second, the read after a diagnostic command returns the RES that `exec` of it wrote, and the read of `OUT[k]`,
k < LEN, after a data command returns the byte that `exec` of it wrote there. -/
def Obligations.HostReadsTheResultOfTheCommand : Prop :=
  ∀ (i : Instr) (s : State) (rest : List Input), s.Executing i →
    (i.isData = false → s.inputs = .engine :: rd .res :: rest →
      ∃ t u, step s = .next t ∧ exec i { s with inputs := rd .res :: rest } = .next t ∧ step t = .next u ∧
        u.rsp = some (.data (BitVec.ofNat 32 t.res.toNat))) ∧
    (i.isData = true → ∀ k, k < s.len.toNat → s.inputs = .engine :: rd (.outEntry k) :: rest →
      ∃ t u b, step s = .next t ∧ exec i { s with inputs := rd (.outEntry k) :: rest } = .next t ∧ step t = .next u ∧
        t.outBuf.read k = some b ∧ u.rsp = some (.data (BitVec.ofNat 32 b.toNat)))
end

