-- ==== Sys2Proof/Laws/State.lean ====
section
/-! SUPPORT. One lemma for each field of State and each named update of it: what the field is afterwards. All hold by
definition, so no later proof unfolds a record update. Below them the same for the fields of STATUS. -/

namespace Sys2Proof.Machine

/-! ### `State.startCommand` -/

@[simp] theorem State.startCommand_params (i : Instr) (s : State) : (s.startCommand i).params = s.params := rfl
@[simp] theorem State.startCommand_status (i : Instr) (s : State) : (s.startCommand i).status = s.status.started := rfl
@[simp] theorem State.startCommand_key (i : Instr) (s : State) : (s.startCommand i).key = s.key := rfl
@[simp] theorem State.startCommand_rounds (i : Instr) (s : State) : (s.startCommand i).rounds = s.rounds := rfl
@[simp] theorem State.startCommand_iv (i : Instr) (s : State) : (s.startCommand i).iv = s.iv := rfl
@[simp] theorem State.startCommand_len (i : Instr) (s : State) : (s.startCommand i).len = s.len := rfl
@[simp] theorem State.startCommand_da (i : Instr) (s : State) : (s.startCommand i).da = s.da := rfl
@[simp] theorem State.startCommand_db (i : Instr) (s : State) : (s.startCommand i).db = s.db := rfl
@[simp] theorem State.startCommand_res (i : Instr) (s : State) : (s.startCommand i).res = s.res := rfl
@[simp] theorem State.startCommand_inBuf (i : Instr) (s : State) : (s.startCommand i).inBuf = s.inBuf := rfl
@[simp] theorem State.startCommand_outBuf (i : Instr) (s : State) : (s.startCommand i).outBuf = s.outBuf := rfl
@[simp] theorem State.startCommand_opr (i : Instr) (s : State) : (s.startCommand i).opr = i.opcode := rfl
@[simp] theorem State.startCommand_phase (i : Instr) (s : State) : (s.startCommand i).phase = .busy := rfl
@[simp] theorem State.startCommand_blk (i : Instr) (s : State) : (s.startCommand i).blk = s.blocksAtStart i := rfl
@[simp] theorem State.startCommand_cblk (i : Instr) (s : State) : (s.startCommand i).cblk = s.copyAtStart i := rfl
@[simp] theorem State.startCommand_resetLine (i : Instr) (s : State) : (s.startCommand i).resetLine = s.resetLine := rfl
@[simp] theorem State.startCommand_inputs (i : Instr) (s : State) : (s.startCommand i).inputs = s.inputs := rfl
@[simp] theorem State.startCommand_rsp (i : Instr) (s : State) : (s.startCommand i).rsp = s.rsp := rfl
@[simp] theorem State.startCommand_lastRead (i : Instr) (s : State) : (s.startCommand i).lastRead = s.lastRead := rfl
@[simp] theorem State.startCommand_recorded (i : Instr) (s : State) : (s.startCommand i).recorded = s.recorded ++ (if i.isData then s.missingInputs else []) := rfl
@[simp] theorem State.startCommand_draws (i : Instr) (s : State) : (s.startCommand i).draws = s.draws + (if i.isData then 1 else 0) := rfl

/-! ### `State.raiseCmdError` -/

@[simp] theorem State.raiseCmdError_params (e : CmdError) (s : State) : (s.raiseCmdError e).params = s.params := rfl
@[simp] theorem State.raiseCmdError_status (e : CmdError) (s : State) : (s.raiseCmdError e).status = Status.failed e := rfl
@[simp] theorem State.raiseCmdError_key (e : CmdError) (s : State) : (s.raiseCmdError e).key = s.key := rfl
@[simp] theorem State.raiseCmdError_rounds (e : CmdError) (s : State) : (s.raiseCmdError e).rounds = s.rounds := rfl
@[simp] theorem State.raiseCmdError_iv (e : CmdError) (s : State) : (s.raiseCmdError e).iv = s.iv := rfl
@[simp] theorem State.raiseCmdError_len (e : CmdError) (s : State) : (s.raiseCmdError e).len = s.len := rfl
@[simp] theorem State.raiseCmdError_da (e : CmdError) (s : State) : (s.raiseCmdError e).da = s.da := rfl
@[simp] theorem State.raiseCmdError_db (e : CmdError) (s : State) : (s.raiseCmdError e).db = s.db := rfl
@[simp] theorem State.raiseCmdError_res (e : CmdError) (s : State) : (s.raiseCmdError e).res = s.res := rfl
@[simp] theorem State.raiseCmdError_inBuf (e : CmdError) (s : State) : (s.raiseCmdError e).inBuf = s.inBuf := rfl
@[simp] theorem State.raiseCmdError_outBuf (e : CmdError) (s : State) : (s.raiseCmdError e).outBuf = s.outBuf := rfl
@[simp] theorem State.raiseCmdError_opr (e : CmdError) (s : State) : (s.raiseCmdError e).opr = s.opr := rfl
@[simp] theorem State.raiseCmdError_phase (e : CmdError) (s : State) : (s.raiseCmdError e).phase = s.phase := rfl
@[simp] theorem State.raiseCmdError_blk (e : CmdError) (s : State) : (s.raiseCmdError e).blk = s.blk := rfl
@[simp] theorem State.raiseCmdError_cblk (e : CmdError) (s : State) : (s.raiseCmdError e).cblk = s.cblk := rfl
@[simp] theorem State.raiseCmdError_resetLine (e : CmdError) (s : State) : (s.raiseCmdError e).resetLine = s.resetLine := rfl
@[simp] theorem State.raiseCmdError_inputs (e : CmdError) (s : State) : (s.raiseCmdError e).inputs = s.inputs := rfl
@[simp] theorem State.raiseCmdError_rsp (e : CmdError) (s : State) : (s.raiseCmdError e).rsp = s.rsp := rfl
@[simp] theorem State.raiseCmdError_lastRead (e : CmdError) (s : State) : (s.raiseCmdError e).lastRead = s.lastRead := rfl
@[simp] theorem State.raiseCmdError_recorded (e : CmdError) (s : State) : (s.raiseCmdError e).recorded = s.recorded := rfl
@[simp] theorem State.raiseCmdError_draws (e : CmdError) (s : State) : (s.raiseCmdError e).draws = s.draws := rfl

/-! ### `State.clearStatus` -/

@[simp] theorem State.clearStatus_params (s : State) : (s.clearStatus).params = s.params := rfl
@[simp] theorem State.clearStatus_status (s : State) : (s.clearStatus).status = s.status.cleared := rfl
@[simp] theorem State.clearStatus_key (s : State) : (s.clearStatus).key = s.key := rfl
@[simp] theorem State.clearStatus_rounds (s : State) : (s.clearStatus).rounds = s.rounds := rfl
@[simp] theorem State.clearStatus_iv (s : State) : (s.clearStatus).iv = s.iv := rfl
@[simp] theorem State.clearStatus_len (s : State) : (s.clearStatus).len = s.len := rfl
@[simp] theorem State.clearStatus_da (s : State) : (s.clearStatus).da = s.da := rfl
@[simp] theorem State.clearStatus_db (s : State) : (s.clearStatus).db = s.db := rfl
@[simp] theorem State.clearStatus_res (s : State) : (s.clearStatus).res = s.res := rfl
@[simp] theorem State.clearStatus_inBuf (s : State) : (s.clearStatus).inBuf = s.inBuf := rfl
@[simp] theorem State.clearStatus_outBuf (s : State) : (s.clearStatus).outBuf = s.outBuf := rfl
@[simp] theorem State.clearStatus_opr (s : State) : (s.clearStatus).opr = s.opr := rfl
@[simp] theorem State.clearStatus_phase (s : State) : (s.clearStatus).phase = s.phase := rfl
@[simp] theorem State.clearStatus_blk (s : State) : (s.clearStatus).blk = s.blk := rfl
@[simp] theorem State.clearStatus_cblk (s : State) : (s.clearStatus).cblk = s.cblk := rfl
@[simp] theorem State.clearStatus_resetLine (s : State) : (s.clearStatus).resetLine = s.resetLine := rfl
@[simp] theorem State.clearStatus_inputs (s : State) : (s.clearStatus).inputs = s.inputs := rfl
@[simp] theorem State.clearStatus_rsp (s : State) : (s.clearStatus).rsp = s.rsp := rfl
@[simp] theorem State.clearStatus_lastRead (s : State) : (s.clearStatus).lastRead = s.lastRead := rfl
@[simp] theorem State.clearStatus_recorded (s : State) : (s.clearStatus).recorded = s.recorded := rfl
@[simp] theorem State.clearStatus_draws (s : State) : (s.clearStatus).draws = s.draws := rfl

/-! ### `State.dropWrite` -/

@[simp] theorem State.dropWrite_params (s : State) : (s.dropWrite).params = s.params := rfl
@[simp] theorem State.dropWrite_status (s : State) : (s.dropWrite).status = s.status.overrun := rfl
@[simp] theorem State.dropWrite_key (s : State) : (s.dropWrite).key = s.key := rfl
@[simp] theorem State.dropWrite_rounds (s : State) : (s.dropWrite).rounds = s.rounds := rfl
@[simp] theorem State.dropWrite_iv (s : State) : (s.dropWrite).iv = s.iv := rfl
@[simp] theorem State.dropWrite_len (s : State) : (s.dropWrite).len = s.len := rfl
@[simp] theorem State.dropWrite_da (s : State) : (s.dropWrite).da = s.da := rfl
@[simp] theorem State.dropWrite_db (s : State) : (s.dropWrite).db = s.db := rfl
@[simp] theorem State.dropWrite_res (s : State) : (s.dropWrite).res = s.res := rfl
@[simp] theorem State.dropWrite_inBuf (s : State) : (s.dropWrite).inBuf = s.inBuf := rfl
@[simp] theorem State.dropWrite_outBuf (s : State) : (s.dropWrite).outBuf = s.outBuf := rfl
@[simp] theorem State.dropWrite_opr (s : State) : (s.dropWrite).opr = s.opr := rfl
@[simp] theorem State.dropWrite_phase (s : State) : (s.dropWrite).phase = s.phase := rfl
@[simp] theorem State.dropWrite_blk (s : State) : (s.dropWrite).blk = s.blk := rfl
@[simp] theorem State.dropWrite_cblk (s : State) : (s.dropWrite).cblk = s.cblk := rfl
@[simp] theorem State.dropWrite_resetLine (s : State) : (s.dropWrite).resetLine = s.resetLine := rfl
@[simp] theorem State.dropWrite_inputs (s : State) : (s.dropWrite).inputs = s.inputs := rfl
@[simp] theorem State.dropWrite_rsp (s : State) : (s.dropWrite).rsp = s.rsp := rfl
@[simp] theorem State.dropWrite_lastRead (s : State) : (s.dropWrite).lastRead = s.lastRead := rfl
@[simp] theorem State.dropWrite_recorded (s : State) : (s.dropWrite).recorded = s.recorded := rfl
@[simp] theorem State.dropWrite_draws (s : State) : (s.dropWrite).draws = s.draws := rfl

/-! ### `State.completeData` -/

@[simp] theorem State.completeData_params (out : List Byte) (s : State) : (s.completeData out).params = s.params := rfl
@[simp] theorem State.completeData_status (out : List Byte) (s : State) : (s.completeData out).status = s.status.completed := rfl
@[simp] theorem State.completeData_key (out : List Byte) (s : State) : (s.completeData out).key = s.key := rfl
@[simp] theorem State.completeData_rounds (out : List Byte) (s : State) : (s.completeData out).rounds = s.rounds := rfl
@[simp] theorem State.completeData_iv (out : List Byte) (s : State) : (s.completeData out).iv = s.iv := rfl
@[simp] theorem State.completeData_len (out : List Byte) (s : State) : (s.completeData out).len = s.len := rfl
@[simp] theorem State.completeData_da (out : List Byte) (s : State) : (s.completeData out).da = s.da := rfl
@[simp] theorem State.completeData_db (out : List Byte) (s : State) : (s.completeData out).db = s.db := rfl
@[simp] theorem State.completeData_res (out : List Byte) (s : State) : (s.completeData out).res = s.res := rfl
@[simp] theorem State.completeData_inBuf (out : List Byte) (s : State) : (s.completeData out).inBuf = s.inBuf := rfl
@[simp] theorem State.completeData_outBuf (out : List Byte) (s : State) : (s.completeData out).outBuf = s.outBuf.writeBytes 0 (out.take s.len.toNat) := rfl
@[simp] theorem State.completeData_opr (out : List Byte) (s : State) : (s.completeData out).opr = s.opr := rfl
@[simp] theorem State.completeData_phase (out : List Byte) (s : State) : (s.completeData out).phase = .idle := rfl
@[simp] theorem State.completeData_blk (out : List Byte) (s : State) : (s.completeData out).blk = [] := rfl
@[simp] theorem State.completeData_cblk (out : List Byte) (s : State) : (s.completeData out).cblk = [] := rfl
@[simp] theorem State.completeData_resetLine (out : List Byte) (s : State) : (s.completeData out).resetLine = s.resetLine := rfl
@[simp] theorem State.completeData_inputs (out : List Byte) (s : State) : (s.completeData out).inputs = s.inputs := rfl
@[simp] theorem State.completeData_rsp (out : List Byte) (s : State) : (s.completeData out).rsp = s.rsp := rfl
@[simp] theorem State.completeData_lastRead (out : List Byte) (s : State) : (s.completeData out).lastRead = s.lastRead := rfl
@[simp] theorem State.completeData_recorded (out : List Byte) (s : State) : (s.completeData out).recorded = s.recorded := rfl
@[simp] theorem State.completeData_draws (out : List Byte) (s : State) : (s.completeData out).draws = s.draws := rfl

/-! ### `State.completeDiag` -/

@[simp] theorem State.completeDiag_params (v : BitVec 12) (s : State) : (s.completeDiag v).params = s.params := rfl
@[simp] theorem State.completeDiag_status (v : BitVec 12) (s : State) : (s.completeDiag v).status = s.status.completed := rfl
@[simp] theorem State.completeDiag_key (v : BitVec 12) (s : State) : (s.completeDiag v).key = s.key := rfl
@[simp] theorem State.completeDiag_rounds (v : BitVec 12) (s : State) : (s.completeDiag v).rounds = s.rounds := rfl
@[simp] theorem State.completeDiag_iv (v : BitVec 12) (s : State) : (s.completeDiag v).iv = s.iv := rfl
@[simp] theorem State.completeDiag_len (v : BitVec 12) (s : State) : (s.completeDiag v).len = s.len := rfl
@[simp] theorem State.completeDiag_da (v : BitVec 12) (s : State) : (s.completeDiag v).da = s.da := rfl
@[simp] theorem State.completeDiag_db (v : BitVec 12) (s : State) : (s.completeDiag v).db = s.db := rfl
@[simp] theorem State.completeDiag_res (v : BitVec 12) (s : State) : (s.completeDiag v).res = v := rfl
@[simp] theorem State.completeDiag_inBuf (v : BitVec 12) (s : State) : (s.completeDiag v).inBuf = s.inBuf := rfl
@[simp] theorem State.completeDiag_outBuf (v : BitVec 12) (s : State) : (s.completeDiag v).outBuf = s.outBuf := rfl
@[simp] theorem State.completeDiag_opr (v : BitVec 12) (s : State) : (s.completeDiag v).opr = s.opr := rfl
@[simp] theorem State.completeDiag_phase (v : BitVec 12) (s : State) : (s.completeDiag v).phase = .idle := rfl
@[simp] theorem State.completeDiag_blk (v : BitVec 12) (s : State) : (s.completeDiag v).blk = s.blk := rfl
@[simp] theorem State.completeDiag_cblk (v : BitVec 12) (s : State) : (s.completeDiag v).cblk = s.cblk := rfl
@[simp] theorem State.completeDiag_resetLine (v : BitVec 12) (s : State) : (s.completeDiag v).resetLine = s.resetLine := rfl
@[simp] theorem State.completeDiag_inputs (v : BitVec 12) (s : State) : (s.completeDiag v).inputs = s.inputs := rfl
@[simp] theorem State.completeDiag_rsp (v : BitVec 12) (s : State) : (s.completeDiag v).rsp = s.rsp := rfl
@[simp] theorem State.completeDiag_lastRead (v : BitVec 12) (s : State) : (s.completeDiag v).lastRead = s.lastRead := rfl
@[simp] theorem State.completeDiag_recorded (v : BitVec 12) (s : State) : (s.completeDiag v).recorded = s.recorded := rfl
@[simp] theorem State.completeDiag_draws (v : BitVec 12) (s : State) : (s.completeDiag v).draws = s.draws := rfl

/-! ### `State.respond` -/

@[simp] theorem State.respond_params (r : Response) (s : State) : (s.respond r).params = s.params := rfl
@[simp] theorem State.respond_status (r : Response) (s : State) : (s.respond r).status = s.status := rfl
@[simp] theorem State.respond_key (r : Response) (s : State) : (s.respond r).key = s.key := rfl
@[simp] theorem State.respond_rounds (r : Response) (s : State) : (s.respond r).rounds = s.rounds := rfl
@[simp] theorem State.respond_iv (r : Response) (s : State) : (s.respond r).iv = s.iv := rfl
@[simp] theorem State.respond_len (r : Response) (s : State) : (s.respond r).len = s.len := rfl
@[simp] theorem State.respond_da (r : Response) (s : State) : (s.respond r).da = s.da := rfl
@[simp] theorem State.respond_db (r : Response) (s : State) : (s.respond r).db = s.db := rfl
@[simp] theorem State.respond_res (r : Response) (s : State) : (s.respond r).res = s.res := rfl
@[simp] theorem State.respond_inBuf (r : Response) (s : State) : (s.respond r).inBuf = s.inBuf := rfl
@[simp] theorem State.respond_outBuf (r : Response) (s : State) : (s.respond r).outBuf = s.outBuf := rfl
@[simp] theorem State.respond_opr (r : Response) (s : State) : (s.respond r).opr = s.opr := rfl
@[simp] theorem State.respond_phase (r : Response) (s : State) : (s.respond r).phase = s.phase := rfl
@[simp] theorem State.respond_blk (r : Response) (s : State) : (s.respond r).blk = s.blk := rfl
@[simp] theorem State.respond_cblk (r : Response) (s : State) : (s.respond r).cblk = s.cblk := rfl
@[simp] theorem State.respond_resetLine (r : Response) (s : State) : (s.respond r).resetLine = s.resetLine := rfl
@[simp] theorem State.respond_inputs (r : Response) (s : State) : (s.respond r).inputs = s.inputs := rfl
@[simp] theorem State.respond_rsp (r : Response) (s : State) : (s.respond r).rsp = some r := rfl
@[simp] theorem State.respond_lastRead (r : Response) (s : State) : (s.respond r).lastRead = s.lastRead := rfl
@[simp] theorem State.respond_recorded (r : Response) (s : State) : (s.respond r).recorded = s.recorded := rfl
@[simp] theorem State.respond_draws (r : Response) (s : State) : (s.respond r).draws = s.draws := rfl

/-! ### `State.returnData` -/

@[simp] theorem State.returnData_params (v : Word) (s : State) : (s.returnData v).params = s.params := rfl
@[simp] theorem State.returnData_status (v : Word) (s : State) : (s.returnData v).status = s.status := rfl
@[simp] theorem State.returnData_key (v : Word) (s : State) : (s.returnData v).key = s.key := rfl
@[simp] theorem State.returnData_rounds (v : Word) (s : State) : (s.returnData v).rounds = s.rounds := rfl
@[simp] theorem State.returnData_iv (v : Word) (s : State) : (s.returnData v).iv = s.iv := rfl
@[simp] theorem State.returnData_len (v : Word) (s : State) : (s.returnData v).len = s.len := rfl
@[simp] theorem State.returnData_da (v : Word) (s : State) : (s.returnData v).da = s.da := rfl
@[simp] theorem State.returnData_db (v : Word) (s : State) : (s.returnData v).db = s.db := rfl
@[simp] theorem State.returnData_res (v : Word) (s : State) : (s.returnData v).res = s.res := rfl
@[simp] theorem State.returnData_inBuf (v : Word) (s : State) : (s.returnData v).inBuf = s.inBuf := rfl
@[simp] theorem State.returnData_outBuf (v : Word) (s : State) : (s.returnData v).outBuf = s.outBuf := rfl
@[simp] theorem State.returnData_opr (v : Word) (s : State) : (s.returnData v).opr = s.opr := rfl
@[simp] theorem State.returnData_phase (v : Word) (s : State) : (s.returnData v).phase = s.phase := rfl
@[simp] theorem State.returnData_blk (v : Word) (s : State) : (s.returnData v).blk = s.blk := rfl
@[simp] theorem State.returnData_cblk (v : Word) (s : State) : (s.returnData v).cblk = s.cblk := rfl
@[simp] theorem State.returnData_resetLine (v : Word) (s : State) : (s.returnData v).resetLine = s.resetLine := rfl
@[simp] theorem State.returnData_inputs (v : Word) (s : State) : (s.returnData v).inputs = s.inputs := rfl
@[simp] theorem State.returnData_rsp (v : Word) (s : State) : (s.returnData v).rsp = some (.data v) := rfl
@[simp] theorem State.returnData_lastRead (v : Word) (s : State) : (s.returnData v).lastRead = v := rfl
@[simp] theorem State.returnData_recorded (v : Word) (s : State) : (s.returnData v).recorded = s.recorded := rfl
@[simp] theorem State.returnData_draws (v : Word) (s : State) : (s.returnData v).draws = s.draws := rfl

/-! ### `State.draw` -/

@[simp] theorem State.draw_params (s : State) : (s.draw).params = s.params := rfl
@[simp] theorem State.draw_status (s : State) : (s.draw).status = s.status := rfl
@[simp] theorem State.draw_key (s : State) : (s.draw).key = s.key := rfl
@[simp] theorem State.draw_rounds (s : State) : (s.draw).rounds = s.rounds := rfl
@[simp] theorem State.draw_iv (s : State) : (s.draw).iv = s.iv := rfl
@[simp] theorem State.draw_len (s : State) : (s.draw).len = s.len := rfl
@[simp] theorem State.draw_da (s : State) : (s.draw).da = s.da := rfl
@[simp] theorem State.draw_db (s : State) : (s.draw).db = s.db := rfl
@[simp] theorem State.draw_res (s : State) : (s.draw).res = s.res := rfl
@[simp] theorem State.draw_inBuf (s : State) : (s.draw).inBuf = s.inBuf := rfl
@[simp] theorem State.draw_outBuf (s : State) : (s.draw).outBuf = s.outBuf := rfl
@[simp] theorem State.draw_opr (s : State) : (s.draw).opr = s.opr := rfl
@[simp] theorem State.draw_phase (s : State) : (s.draw).phase = s.phase := rfl
@[simp] theorem State.draw_blk (s : State) : (s.draw).blk = s.blk := rfl
@[simp] theorem State.draw_cblk (s : State) : (s.draw).cblk = s.cblk := rfl
@[simp] theorem State.draw_resetLine (s : State) : (s.draw).resetLine = s.resetLine := rfl
@[simp] theorem State.draw_inputs (s : State) : (s.draw).inputs = s.inputs := rfl
@[simp] theorem State.draw_rsp (s : State) : (s.draw).rsp = s.rsp := rfl
@[simp] theorem State.draw_lastRead (s : State) : (s.draw).lastRead = s.lastRead := rfl
@[simp] theorem State.draw_recorded (s : State) : (s.draw).recorded = s.recorded := rfl
@[simp] theorem State.draw_draws (s : State) : (s.draw).draws = s.draws + 1 := rfl

/-! ### `State.assertReset` -/

@[simp] theorem State.assertReset_params (s : State) : (s.assertReset).params = s.params := rfl
@[simp] theorem State.assertReset_status (s : State) : (s.assertReset).status = Status.reset := rfl
@[simp] theorem State.assertReset_key (s : State) : (s.assertReset).key = 0 := rfl
@[simp] theorem State.assertReset_rounds (s : State) : (s.assertReset).rounds = 0 := rfl
@[simp] theorem State.assertReset_iv (s : State) : (s.assertReset).iv = 0 := rfl
@[simp] theorem State.assertReset_len (s : State) : (s.assertReset).len = 0 := rfl
@[simp] theorem State.assertReset_da (s : State) : (s.assertReset).da = 0 := rfl
@[simp] theorem State.assertReset_db (s : State) : (s.assertReset).db = 0 := rfl
@[simp] theorem State.assertReset_res (s : State) : (s.assertReset).res = 0 := rfl
@[simp] theorem State.assertReset_inBuf (s : State) : (s.assertReset).inBuf = [] := rfl
@[simp] theorem State.assertReset_outBuf (s : State) : (s.assertReset).outBuf = [] := rfl
@[simp] theorem State.assertReset_opr (s : State) : (s.assertReset).opr = 0 := rfl
@[simp] theorem State.assertReset_phase (s : State) : (s.assertReset).phase = .idle := rfl
@[simp] theorem State.assertReset_blk (s : State) : (s.assertReset).blk = [] := rfl
@[simp] theorem State.assertReset_cblk (s : State) : (s.assertReset).cblk = [] := rfl
@[simp] theorem State.assertReset_resetLine (s : State) : (s.assertReset).resetLine = true := rfl
@[simp] theorem State.assertReset_inputs (s : State) : (s.assertReset).inputs = s.inputs := rfl
@[simp] theorem State.assertReset_rsp (s : State) : (s.assertReset).rsp = s.rsp := rfl
@[simp] theorem State.assertReset_lastRead (s : State) : (s.assertReset).lastRead = s.lastRead := rfl
@[simp] theorem State.assertReset_recorded (s : State) : (s.assertReset).recorded = s.recorded := rfl
@[simp] theorem State.assertReset_draws (s : State) : (s.assertReset).draws = s.draws := rfl

/-! ### `State.releaseReset` -/

@[simp] theorem State.releaseReset_params (s : State) : (s.releaseReset).params = s.params := rfl
@[simp] theorem State.releaseReset_status (s : State) : (s.releaseReset).status = s.status := rfl
@[simp] theorem State.releaseReset_key (s : State) : (s.releaseReset).key = s.key := rfl
@[simp] theorem State.releaseReset_rounds (s : State) : (s.releaseReset).rounds = s.rounds := rfl
@[simp] theorem State.releaseReset_iv (s : State) : (s.releaseReset).iv = s.iv := rfl
@[simp] theorem State.releaseReset_len (s : State) : (s.releaseReset).len = s.len := rfl
@[simp] theorem State.releaseReset_da (s : State) : (s.releaseReset).da = s.da := rfl
@[simp] theorem State.releaseReset_db (s : State) : (s.releaseReset).db = s.db := rfl
@[simp] theorem State.releaseReset_res (s : State) : (s.releaseReset).res = s.res := rfl
@[simp] theorem State.releaseReset_inBuf (s : State) : (s.releaseReset).inBuf = s.inBuf := rfl
@[simp] theorem State.releaseReset_outBuf (s : State) : (s.releaseReset).outBuf = s.outBuf := rfl
@[simp] theorem State.releaseReset_opr (s : State) : (s.releaseReset).opr = s.opr := rfl
@[simp] theorem State.releaseReset_phase (s : State) : (s.releaseReset).phase = s.phase := rfl
@[simp] theorem State.releaseReset_blk (s : State) : (s.releaseReset).blk = s.blk := rfl
@[simp] theorem State.releaseReset_cblk (s : State) : (s.releaseReset).cblk = s.cblk := rfl
@[simp] theorem State.releaseReset_resetLine (s : State) : (s.releaseReset).resetLine = false := rfl
@[simp] theorem State.releaseReset_inputs (s : State) : (s.releaseReset).inputs = s.inputs := rfl
@[simp] theorem State.releaseReset_rsp (s : State) : (s.releaseReset).rsp = s.rsp := rfl
@[simp] theorem State.releaseReset_lastRead (s : State) : (s.releaseReset).lastRead = s.lastRead := rfl
@[simp] theorem State.releaseReset_recorded (s : State) : (s.releaseReset).recorded = s.recorded := rfl
@[simp] theorem State.releaseReset_draws (s : State) : (s.releaseReset).draws = s.draws := rfl

/-! ### STATUS -/

@[simp] theorem Status.cleared_busy (st : Status) : st.cleared.busy = st.busy := rfl
@[simp] theorem Status.cleared_done (st : Status) : st.cleared.done = false := rfl
@[simp] theorem Status.cleared_err (st : Status) : st.cleared.err = false := rfl
@[simp] theorem Status.cleared_ovr (st : Status) : st.cleared.ovr = false := rfl
@[simp] theorem Status.cleared_errCode (st : Status) : st.cleared.errCode = 0 := rfl
@[simp] theorem Status.started_busy (st : Status) : st.started.busy = true := rfl
@[simp] theorem Status.started_done (st : Status) : st.started.done = st.done := rfl
@[simp] theorem Status.started_err (st : Status) : st.started.err = st.err := rfl
@[simp] theorem Status.started_ovr (st : Status) : st.started.ovr = st.ovr := rfl
@[simp] theorem Status.started_errCode (st : Status) : st.started.errCode = st.errCode := rfl
@[simp] theorem Status.completed_busy (st : Status) : st.completed.busy = false := rfl
@[simp] theorem Status.completed_done (st : Status) : st.completed.done = true := rfl
@[simp] theorem Status.completed_err (st : Status) : st.completed.err = st.err := rfl
@[simp] theorem Status.completed_ovr (st : Status) : st.completed.ovr = st.ovr := rfl
@[simp] theorem Status.completed_errCode (st : Status) : st.completed.errCode = st.errCode := rfl
@[simp] theorem Status.overrun_busy (st : Status) : st.overrun.busy = st.busy := rfl
@[simp] theorem Status.overrun_done (st : Status) : st.overrun.done = st.done := rfl
@[simp] theorem Status.overrun_err (st : Status) : st.overrun.err = st.err := rfl
@[simp] theorem Status.overrun_ovr (st : Status) : st.overrun.ovr = true := rfl
@[simp] theorem Status.overrun_errCode (st : Status) : st.overrun.errCode = st.errCode := rfl
@[simp] theorem Status.failed_busy (e : CmdError) : (Status.failed e).busy = false := rfl
@[simp] theorem Status.failed_done (e : CmdError) : (Status.failed e).done = true := rfl
@[simp] theorem Status.failed_err (e : CmdError) : (Status.failed e).err = true := rfl
@[simp] theorem Status.failed_ovr (e : CmdError) : (Status.failed e).ovr = false := rfl
@[simp] theorem Status.failed_errCode (e : CmdError) : (Status.failed e).errCode = errorCode e := rfl
@[simp] theorem Status.reset_busy : Status.reset.busy = false := rfl
@[simp] theorem Status.reset_done : Status.reset.done = false := rfl
@[simp] theorem Status.reset_err : Status.reset.err = false := rfl
@[simp] theorem Status.reset_ovr : Status.reset.ovr = false := rfl
@[simp] theorem Status.reset_errCode : Status.reset.errCode = 0 := rfl

end Sys2Proof.Machine
end

