-- ==== Sys2Proof/Laws/Ops.lean ====
section
/-! SUPPORT. One lemma for each shared operation that says what it can do: the memory operations and their canonical
form, the address map, the register fields, acceptance, a host access, the engine's turn, one step. -/

namespace Sys2Proof

theorem Params.bufBytes_bounds (p : Params) : 3 ≤ p.bufBytes ∧ p.bufBytes ≤ 1023 ∧ p.bufBytes % 3 = 0 := by
  have := p.bufGroups.isLt
  simp only [Params.bufBytes]; omega

theorem Params.keyW_bounds (p : Params) : 9 ≤ p.keyW ∧ p.keyW ≤ 32 := by
  have := p.keyExtra.isLt
  simp only [Params.keyW]; omega

end Sys2Proof

namespace Sys2Proof.Machine

/-! ### Memory -/

@[simp] theorem Memory.read_nil (k : Nat) : Memory.read [] k = none := rfl

/-- A write is read back at its entry and leaves every other entry alone. -/
theorem Memory.read_write (m : Memory) (k j : Nat) (v : Byte) :
    (m.write k v).read j = if j = k then some v else m.read j := by
  induction m with
  | nil =>
    simp only [Memory.write, Memory.read]
    split_ifs <;> first | rfl | omega
  | cons c rest ih =>
    obtain ⟨a, b⟩ := c
    simp only [Memory.write]
    split_ifs <;> simp only [Memory.read, ih] <;> split_ifs <;> first | rfl | omega

/-- Consecutive writes: entries inside the written range hold the bytes written, all others are as before. -/
theorem Memory.read_writeBytes (bytes : List Byte) (m : Memory) (k j : Nat) :
    (m.writeBytes k bytes).read j = if k ≤ j ∧ j < k + bytes.length then bytes[j - k]? else m.read j := by
  induction bytes generalizing m k with
  | nil =>
    have : ¬ (k ≤ j ∧ j < k + ([] : List Byte).length) := by simp
    rw [if_neg this]; rfl
  | cons v rest ih =>
    rw [Memory.writeBytes, ih, Memory.read_write]
    by_cases hj : j = k
    · subst hj; simp
    · by_cases hin : k ≤ j ∧ j < k + (v :: rest).length
      · have h2 : k + 1 ≤ j ∧ j < k + 1 + rest.length := by
          simp only [List.length_cons] at hin; omega
        rw [if_pos h2, if_pos hin, show j - k = (j - (k + 1)) + 1 by omega, List.getElem?_cons_succ]
      · have h2 : ¬ (k + 1 ≤ j ∧ j < k + 1 + rest.length) := by
          simp only [List.length_cons] at hin; omega
        rw [if_neg h2, if_neg hin, if_neg hj]

theorem Memory.mem_write {m : Memory} {k : Nat} {v : Byte} {c : Host.Cell} (h : c ∈ m.write k v) :
    c = (k, v) ∨ c ∈ m := by
  induction m with
  | nil => simpa [Memory.write] using h
  | cons d rest ih =>
    obtain ⟨a, b⟩ := d
    simp only [Memory.write] at h
    split_ifs at h <;> simp only [List.mem_cons] at h ⊢
    · tauto
    · tauto
    · rcases h with h | h
      · tauto
      · rcases ih h with h | h <;> tauto

/-- A write keeps the canonical form. -/
theorem Memory.wf_write {m : Memory} (h : m.wf) (k : Nat) (v : Byte) : (m.write k v).wf := by
  induction m with
  | nil => simp [Memory.write, Memory.wf]
  | cons d rest ih =>
    obtain ⟨a, b⟩ := d
    have hrest : ∀ c ∈ rest, a < c.1 := fun c hc => (List.pairwise_cons.mp h).1 c hc
    have htail : Memory.wf rest := (List.pairwise_cons.mp h).2
    simp only [Memory.write]
    split_ifs with h1 h2
    · refine List.pairwise_cons.mpr ⟨?_, h⟩
      intro c hc
      rcases List.mem_cons.mp hc with rfl | hc
      · exact h1
      · exact lt_trans h1 (hrest c hc)
    · subst h2
      exact List.pairwise_cons.mpr ⟨hrest, htail⟩
    · refine List.pairwise_cons.mpr ⟨?_, ih htail⟩
      intro c hc
      rcases Memory.mem_write hc with rfl | hc
      · simp only; omega
      · exact hrest c hc

/-- Consecutive writes keep the canonical form. -/
theorem Memory.wf_writeBytes (bytes : List Byte) {m : Memory} (h : m.wf) (k : Nat) : (m.writeBytes k bytes).wf := by
  induction bytes generalizing m k with
  | nil => exact h
  | cons v rest ih => exact ih (Memory.wf_write h k v) (k + 1)

theorem Memory.mem_writeBytes {bytes : List Byte} {m : Memory} {k : Nat} {c : Host.Cell}
    (h : c ∈ m.writeBytes k bytes) : c ∈ m ∨ (k ≤ c.1 ∧ c.1 < k + bytes.length) := by
  induction bytes generalizing m k with
  | nil => exact .inl h
  | cons v rest ih =>
    rcases ih h with h | h
    · rcases Memory.mem_write h with rfl | h
      · exact .inr (by simp)
      · exact .inl h
    · right; simp only [List.length_cons]; omega

/-! ### Opcodes and fields -/

theorem ofOpcode_opcode (i : Instr) : Instr.ofOpcode i.opcode = some i := by cases i <;> rfl

theorem opcode_injective {i j : Instr} (h : i.opcode = j.opcode) : i = j := by
  have := ofOpcode_opcode i
  rw [h, ofOpcode_opcode] at this
  exact (Option.some.inj this).symm

theorem keyField_lt (p : Params) (data : Word) : (keyField p data).toNat < 2 ^ p.keyW := by
  simp only [keyField, BitVec.toNat_ofNat]
  exact lt_of_le_of_lt (Nat.mod_le _ _) (Nat.mod_lt _ (by positivity))

/-! ### The address map -/

theorem inAddr_toNat {p : Params} {k : Nat} (h : k < p.bufBytes) : (inAddr k).toNat = 0x1000 + 4 * k := by
  have := p.bufBytes_bounds
  simp only [inAddr, BitVec.toNat_ofNat]; omega

theorem outAddr_toNat {p : Params} {k : Nat} (h : k < p.bufBytes) : (outAddr k).toNat = 0x2000 + 4 * k := by
  have := p.bufBytes_bounds
  simp only [outAddr, BitVec.toNat_ofNat]; omega

/-- A register of the map stands at its own address. -/
theorem registerAt_some {p : Params} {n : Nat} {loc : Location} (h : registerAt n = some loc) :
    loc.exists p ∧ loc.addr.toNat = n := by
  unfold registerAt at h
  split at h <;> cases h <;> exact ⟨trivial, rfl⟩

/-- The map finds every location at its own address. -/
theorem locate_addr {p : Params} {loc : Location} (h : loc.exists p) : locate p loc.addr = some loc := by
  have hb := p.bufBytes_bounds
  cases loc with
  | inEntry k =>
    have ha : (Location.inEntry k).addr.toNat = 0x1000 + 4 * k := inAddr_toNat (show k < p.bufBytes from h)
    have hk : k < p.bufBytes := h
    unfold locate
    rw [if_neg (by omega), if_pos (by omega), ha]
    congr 2; omega
  | outEntry k =>
    have ha : (Location.outEntry k).addr.toNat = 0x2000 + 4 * k := outAddr_toNat (show k < p.bufBytes from h)
    have hk : k < p.bufBytes := h
    unfold locate
    rw [if_neg (by omega), if_neg (by omega), if_pos (by omega), ha]
    congr 2; omega
  | _ => rfl

/-- The addresses of the locations are aligned, so an access of the notation reaches its location. -/
theorem target_addr {p : Params} {loc : Location} (h : loc.exists p) :
    (Access.target p (.read loc.addr 32) = some loc) ∧ ∀ v, Access.target p (.write loc.addr 32 v) = some loc := by
  have hal : loc.addr.toNat % 4 = 0 := by
    cases loc with
    | inEntry k => rw [Location.addr, inAddr_toNat (show k < p.bufBytes from h)]; omega
    | outEntry k => rw [Location.addr, outAddr_toNat (show k < p.bufBytes from h)]; omega
    | _ => rfl
  constructor
  · simp [Access.target, Access.wellFormed, Access.width, Access.addr, hal, locate_addr h]
  · intro v
    simp [Access.target, Access.wellFormed, Access.width, Access.addr, hal, locate_addr h]

/-- What the map answers exists on the implementation, and an aligned address it answers for is that location's. -/
theorem locate_some {p : Params} {a : Addr} {loc : Location} (h : locate p a = some loc) (hal : a.toNat % 4 = 0) :
    loc.exists p ∧ loc.addr = a := by
  have hb := p.bufBytes_bounds
  unfold locate at h
  split_ifs at h with h0 h1 h2
  · obtain ⟨hx, ha⟩ := registerAt_some (p := p) h
    exact ⟨hx, BitVec.eq_of_toNat_eq ha⟩
  · cases h
    have hk : (a.toNat - 0x1000) / 4 < p.bufBytes := by omega
    refine ⟨hk, BitVec.eq_of_toNat_eq ?_⟩
    rw [Location.addr, inAddr_toNat hk]; omega
  · cases h
    have hk : (a.toNat - 0x2000) / 4 < p.bufBytes := by omega
    refine ⟨hk, BitVec.eq_of_toNat_eq ?_⟩
    rw [Location.addr, outAddr_toNat hk]; omega

/-! ### Acceptance -/

/-- How acceptance ends: the command starts, or its error is reported. -/
theorem acceptCommand_cases (w : Word) (s : State) :
    (∃ i, s.checkCommand w = .ok i ∧ s.acceptCommand w = s.clearStatus.startCommand i) ∨
    (∃ e, s.checkCommand w = .error e ∧ s.acceptCommand w = s.clearStatus.raiseCmdError e) := by
  unfold State.acceptCommand
  cases h : s.checkCommand w with
  | ok i => exact .inl ⟨i, rfl, rfl⟩
  | error e => exact .inr ⟨e, rfl, rfl⟩

/-- A command that acceptance takes is decoded from the word, and a data command has a legal LEN. -/
theorem checkCommand_ok {w : Word} {s : State} {i : Instr} (h : s.checkCommand w = .ok i) :
    decode w = .ok i ∧ (i.isData = true → s.LenLegal) := by
  unfold State.checkCommand at h
  split at h
  · cases h
  · rename_i j hj
    split_ifs at h with hd hr ha
    · cases h; exact ⟨hj, fun _ => ⟨by omega, by simpa using ha⟩⟩
    · cases h; exact ⟨hj, fun hd' => absurd hd' hd⟩

/-! ### One host access -/

/-- What a host read of a location can do: it faults on a buffer entry without a value, or it answers data and changes
the response, the host's copy and at most the counter of free values. -/
theorem hostRead_cases (loc : Location) (s : State) :
    (∃ v n, s.hostRead loc = .next { s with rsp := some (.data v), lastRead := v, draws := n }) ∨
    (∃ k, loc = .inEntry k ∧ s.inBuf.read k = none ∧ s.hostRead loc = .fault (.uninit (inAddr k))) ∨
    (∃ k, loc = .outEntry k ∧ s.status.busy = false ∧ s.outBuf.read k = none ∧
      s.hostRead loc = .fault (.uninit (outAddr k))) := by
  cases loc with
  | res =>
    left
    cases hb : s.status.busy
    · exact ⟨_, s.draws, by simp only [State.hostRead, hb]; rfl⟩
    · exact ⟨_, s.draws + 1, by simp only [State.hostRead, hb]; rfl⟩
  | inEntry k =>
    cases hr : s.inBuf.read k with
    | none => exact .inr (.inl ⟨k, rfl, hr, by simp only [State.hostRead, State.readEntry, hr]⟩)
    | some b => exact .inl ⟨_, s.draws, by simp only [State.hostRead, State.readEntry, hr]; rfl⟩
  | outEntry k =>
    cases hb : s.status.busy
    · cases hr : s.outBuf.read k with
      | none => exact .inr (.inr ⟨k, rfl, rfl, hr, by simp [State.hostRead, State.readEntry, hr, hb]⟩)
      | some b => exact .inl ⟨_, s.draws, by simp only [State.hostRead, State.readEntry, hr, hb]; rfl⟩
    · exact .inl ⟨_, s.draws + 1, by simp only [State.hostRead, hb]; rfl⟩
  | _ => exact .inl ⟨_, s.draws, rfl⟩

/-- What a host access can do: nothing during reset; a bus error; a read of a location; a write of one. -/
theorem hostAccess_cases (a : Access) (s : State) :
    (s.resetLine = true ∧ s.hostAccess a = .next { s with rsp := none }) ∨
    (s.resetLine = false ∧ Access.target s.params a = none ∧
      s.hostAccess a = .next { s with rsp := some (.busError a.addr) }) ∨
    (∃ loc addr n, s.resetLine = false ∧ Access.target s.params a = some loc ∧ a = .read addr n ∧
      s.hostAccess a = s.hostRead loc) ∨
    (∃ loc addr n data, s.resetLine = false ∧ Access.target s.params a = some loc ∧ a = .write addr n data ∧
      s.hostAccess a = .next ((s.hostWrite loc data).respond .written)) := by
  by_cases hr : s.resetLine = true
  · exact .inl ⟨hr, by simp only [State.hostAccess, hr, if_true]⟩
  · have hr' : s.resetLine = false := by simpa using hr
    cases ht : Access.target s.params a with
    | none =>
      refine .inr (.inl ⟨hr', rfl, ?_⟩)
      simp only [State.hostAccess, if_neg hr, ht]; rfl
    | some loc =>
      cases a with
      | read addr n =>
        refine .inr (.inr (.inl ⟨loc, addr, n, hr', rfl, rfl, ?_⟩))
        simp only [State.hostAccess, if_neg hr, ht]
      | write addr n data =>
        refine .inr (.inr (.inr ⟨loc, addr, n, data, hr', rfl, rfl, ?_⟩))
        simp only [State.hostAccess, if_neg hr, ht]

/-- What a host write of a location can do: the drop, nothing, an acceptance, one register, one IN entry. -/
theorem hostWrite_cases (loc : Location) (data : Word) (s : State) :
    (s.status.busy = true ∧ loc.writable = true ∧ s.hostWrite loc data = s.dropWrite) ∨
    (loc.writable = false ∧ s.hostWrite loc data = s) ∨
    (s.status.busy = false ∧ loc = .cmd ∧ s.hostWrite loc data = s.acceptCommand data) ∨
    (s.status.busy = false ∧ ∃ k, loc = .inEntry k ∧
      s.hostWrite loc data = { s with inBuf := s.inBuf.write k (data.setWidth 8) }) ∨
    (s.status.busy = false ∧ ∃ key rounds iv len da db, (key = s.key ∨ key = keyField s.params data) ∧
      s.hostWrite loc data =
        { s with key := key, rounds := rounds, iv := iv, len := len, da := da, db := db }) := by
  by_cases hb : s.status.busy = true
  · cases hw : loc.writable
    · refine .inr (.inl ⟨rfl, ?_⟩)
      simp only [State.hostWrite, hw, Bool.and_false, Bool.false_eq_true, if_false]
      cases loc <;> first | rfl | cases hw
    · refine .inl ⟨hb, rfl, ?_⟩
      simp only [State.hostWrite, hb, hw, Bool.and_self, if_true]
  · have hb' : s.status.busy = false := by simpa using hb
    have hs : s.hostWrite loc data = s.storeAt loc data := by
      simp only [State.hostWrite, hb', Bool.false_and, Bool.false_eq_true, if_false]
    rw [hs, hb']
    cases loc with
    | cmd => exact .inr (.inr (.inl ⟨rfl, rfl, rfl⟩))
    | inEntry k => exact .inr (.inr (.inr (.inl ⟨rfl, k, rfl, rfl⟩)))
    | status => exact .inr (.inl ⟨rfl, rfl⟩)
    | res => exact .inr (.inl ⟨rfl, rfl⟩)
    | outEntry k => exact .inr (.inl ⟨rfl, rfl⟩)
    | key => exact .inr (.inr (.inr (.inr ⟨rfl, _, s.rounds, s.iv, s.len, s.da, s.db, .inr rfl, rfl⟩)))
    | rounds => exact .inr (.inr (.inr (.inr ⟨rfl, s.key, _, s.iv, s.len, s.da, s.db, .inl rfl, rfl⟩)))
    | iv => exact .inr (.inr (.inr (.inr ⟨rfl, s.key, s.rounds, _, s.len, s.da, s.db, .inl rfl, rfl⟩)))
    | len => exact .inr (.inr (.inr (.inr ⟨rfl, s.key, s.rounds, s.iv, _, s.da, s.db, .inl rfl, rfl⟩)))
    | da => exact .inr (.inr (.inr (.inr ⟨rfl, s.key, s.rounds, s.iv, s.len, _, s.db, .inl rfl, rfl⟩)))
    | db => exact .inr (.inr (.inr (.inr ⟨rfl, s.key, s.rounds, s.iv, s.len, s.da, _, .inl rfl, rfl⟩)))

/-! ### The engine and the step -/

/-- Execution always answers a next state: a data command completes with result bytes, a diagnostic command with a
result value. -/
theorem exec_cases (i : Instr) (s : State) :
    (i.isData = true ∧ ∃ out, exec i s = .next (s.completeData (blocksToBytes out))) ∨
    (i.isData = false ∧ ∃ v, exec i s = .next (s.completeDiag v)) := by
  cases i
  case ecbEnc => exact .inl ⟨rfl, _, rfl⟩
  case ecbDec => exact .inl ⟨rfl, _, rfl⟩
  case cbcEnc => exact .inl ⟨rfl, _, rfl⟩
  case cbcDec => exact .inl ⟨rfl, _, rfl⟩
  case ctrEnc => exact .inl ⟨rfl, _, rfl⟩
  case ctrDec => exact .inl ⟨rfl, _, rfl⟩
  all_goals exact .inr ⟨rfl, _, rfl⟩

/-- The engine's turn: nothing when idle, the command of OPR when BUSY, a refusal on a reserved OPR. -/
theorem engineTurn_cases (s : State) :
    (s.phase = .idle ∧ engineTurn s = .next s) ∨
    (∃ i, s.phase = .busy ∧ Instr.ofOpcode s.opr = some i ∧ engineTurn s = exec i s) ∨
    (s.phase = .busy ∧ Instr.ofOpcode s.opr = none ∧ engineTurn s = .refused (.reservedOpr s.opr)) := by
  unfold engineTurn
  cases hp : s.phase
  · exact .inl ⟨rfl, rfl⟩
  · cases ho : Instr.ofOpcode s.opr with
    | some i => exact .inr (.inl ⟨i, rfl, rfl, rfl⟩)
    | none => exact .inr (.inr ⟨rfl, rfl, rfl⟩)

@[simp] theorem step_nil {s : State} (h : s.inputs = []) : step s = engineTurn s := by
  simp only [step, nextTurn, h]

theorem step_cons {s : State} {x : Input} {rest : List Input} (h : s.inputs = x :: rest) :
    step s = applyInput x { s with inputs := rest } := by
  simp only [step, nextTurn, h]

/-- A write of the host notation reaches its location. -/
theorem step_wr {s : State} {loc : Location} {v : Word} {rest : List Input} (hr : s.resetLine = false)
    (hl : loc.exists s.params) (h : s.inputs = wr loc v :: rest) :
    step s = .next ((State.hostWrite loc v { s with inputs := rest }).respond .written) := by
  rw [step_cons h, wr]
  simp only [applyInput, State.hostAccess, hr, (target_addr hl).2 v, Bool.false_eq_true, if_false]

/-- A read of the host notation reaches its location. -/
theorem step_rd {s : State} {loc : Location} {rest : List Input} (hr : s.resetLine = false)
    (hl : loc.exists s.params) (h : s.inputs = rd loc :: rest) :
    step s = State.hostRead loc { s with inputs := rest } := by
  rw [step_cons h, rd]
  simp only [applyInput, State.hostAccess, hr, (target_addr hl).1, Bool.false_eq_true, if_false]

end Sys2Proof.Machine
end

