-- ==== Sys2Proof/Laws/Cipher.lean ====
section
/-! SUPPORT. The small lemmas of the cipher's functions: the rounds one at a time, the lengths of what the packer and
the chaining produce, the bytes the engine loads, and the frames of the two ways a command completes. -/

namespace Sys2Proof.Machine

/-! ### Block transforms -/

@[simp] theorem encBlock_zero (p : Params) (key : BitVec 32) (b : Block) : encBlock p key 0 b = b := rfl

theorem encBlock_succ (p : Params) (key : BitVec 32) (n : Nat) (b : Block) :
    encBlock p key (n + 1) b = encRound p (encBlock p key n b) (subkey key (n + 1)) := rfl

@[simp] theorem decBlock_zero (p : Params) (key : BitVec 32) (b : Block) : decBlock p key 0 b = b := rfl

theorem decBlock_succ (p : Params) (key : BitVec 32) (n : Nat) (b : Block) :
    decBlock p key (n + 1) b = decBlock p key n (decRound p b (subkey key (n + 1))) := rfl

/-! ### The packer -/

/-- Two blocks for every whole group (42_block_packer.md R145). -/
theorem bytesToBlocks_length : ∀ bytes : List Byte, (bytesToBlocks bytes).length = 2 * (bytes.length / 3)
  | [] => rfl
  | [_] => by simp [bytesToBlocks]
  | [_, _] => by simp [bytesToBlocks]
  | _ :: _ :: _ :: rest => by
    simp only [bytesToBlocks, List.length_cons, bytesToBlocks_length rest]; omega

/-- Three bytes for every pair of blocks. -/
theorem blocksToBytes_length : ∀ blocks : List Block, (blocksToBytes blocks).length = 3 * (blocks.length / 2)
  | [] => rfl
  | [_] => by simp [blocksToBytes]
  | _ :: _ :: rest => by
    simp only [blocksToBytes, List.length_cons, blocksToBytes_length rest]; omega

/-! ### The chaining -/

@[simp] theorem ecbBlocks_length (f : Block → Block) (blocks : List Block) :
    (ecbBlocks f blocks).length = blocks.length := by simp [ecbBlocks]

@[simp] theorem cbcEncBlocks_length (f : Block → Block) (iv : Block) (blocks : List Block) :
    (cbcEncBlocks f iv blocks).length = blocks.length := by
  induction blocks generalizing iv with
  | nil => rfl
  | cons b rest ih => simp [cbcEncBlocks, ih]

@[simp] theorem cbcDecBlocks_length (f : Block → Block) (iv : Block) (blocks : List Block) :
    (cbcDecBlocks f iv blocks blocks).length = blocks.length := by simp [cbcDecBlocks]

@[simp] theorem ctrBlocks_length (f : Block → Block) (iv : Block) (blocks : List Block) :
    (ctrBlocks f iv blocks).length = blocks.length := by
  induction blocks generalizing iv with
  | nil => rfl
  | cons b rest ih => simp [ctrBlocks, ih]

/-! ### What the engine loads -/

@[simp] theorem inputBytes_length (s : State) : s.inputBytes.length = s.len.toNat := by simp [State.inputBytes]

/-- Byte k of the loaded input: the byte of `IN[k]`, or a free byte where the entry holds none. -/
theorem inputBytes_getElem? (s : State) {k : Nat} (h : k < s.len.toNat) :
    s.inputBytes[k]? = some ((s.inBuf.read k).getD (Config.freeInByte s.draws k)) := by
  simp [State.inputBytes, h]

/-- Where every byte of the input has been written, the engine loads exactly those bytes and records no fault. -/
theorem inputBytes_of_holdsIn {s : State} {bytes : List Byte} (h : s.HoldsIn bytes) :
    s.inputBytes = bytes ∧ s.missingInputs = [] := by
  constructor
  · apply List.ext_getElem?
    intro k
    by_cases hk : k < s.len.toNat
    · rw [inputBytes_getElem? s hk, h.2 k hk, List.getElem?_eq_getElem (by rw [h.1]; exact hk)]; rfl
    · rw [List.getElem?_eq_none (by rw [inputBytes_length]; omega), List.getElem?_eq_none (by rw [h.1]; omega)]
  · simp only [State.missingInputs, List.map_eq_nil_iff, List.filter_eq_nil_iff, List.mem_range]
    intro k hk
    rw [h.2 k hk, List.getElem?_eq_getElem (by rw [h.1]; exact hk)]; simp

/-! ### How a command completes -/

/-- The completion of a data command keeps its frame. -/
theorem completeData_frame (s : State) (out : List Byte) :
    Completed (s.completeData out) ∧ DataFrame s (s.completeData out) := by
  refine ⟨⟨rfl, rfl, rfl⟩,
    ⟨⟨rfl, rfl, rfl, rfl, rfl, rfl, rfl, rfl, rfl, rfl, rfl, rfl, rfl, rfl, rfl, rfl, rfl, rfl⟩, rfl, ?_, rfl, rfl⟩⟩
  intro k hk
  rw [State.completeData_outBuf, Memory.read_writeBytes, if_neg]
  rw [List.length_take]; omega

/-- A result of LEN bytes stands in OUT after the completion. -/
theorem completeData_holdsOut {s : State} {out : List Byte} (h : out.length = s.len.toNat) :
    (s.completeData out).HoldsOut out := by
  intro k hk
  rw [State.completeData_outBuf, Memory.read_writeBytes, List.take_of_length_le (by omega), if_pos (by omega)]
  rfl

/-- The completion of a diagnostic command keeps its frame. -/
theorem completeDiag_frame (s : State) (v : BitVec 12) :
    Completed (s.completeDiag v) ∧ DiagFrame s (s.completeDiag v) :=
  ⟨⟨rfl, rfl, rfl⟩,
    ⟨⟨rfl, rfl, rfl, rfl, rfl, rfl, rfl, rfl, rfl, rfl, rfl, rfl, rfl, rfl, rfl, rfl, rfl, rfl⟩, rfl, rfl, rfl⟩⟩

/-- The engine executes, in a sound state, the command whose OP stands in OPR: its buffers are loaded. -/
theorem executing_runs {i : Instr} {s : State} (h : s.Executing i) : s.Runs i := by
  obtain ⟨j, hj⟩ := h.sound.busyRuns h.busy
  exact opcode_injective (hj.latched.symm.trans h.latched) ▸ hj

/-- A running command shows no error (10_state.md R28). -/
theorem executing_noError {i : Instr} {s : State} (h : s.Executing i) :
    s.status.err = false ∧ s.status.errCode = 0 := by
  have hd := h.sound.busyNotDone (h.sound.phaseIsBusy.mp h.busy)
  have he : s.status.err = false := by
    by_contra hc
    have := h.sound.errIsDone (by simpa using hc)
    simp [hd] at this
  refine ⟨he, ?_⟩
  by_contra hc
  have := h.sound.errHasCode.mpr hc
  simp [he] at this

/-- What every command's rule says beside its result, for a completion that keeps the common frame. -/
theorem issuedAndReported_of_frame {i : Instr} {s t : State} (h : s.Executing i) (c : CommonFrame s t) :
    IssuedAndReported i (encode i) t := by
  have hd : decode (encode i) = .ok i := by cases i <;> rfl
  refine ⟨⟨rfl, hd⟩, fun u => ?_, ?_⟩
  · simp only [State.checkCommand, hd]
    cases i.isData <;> simp
  · rw [c.err, c.errCode]; exact executing_noError h

/-- The memories at reset have the canonical form. -/
theorem reset_memories_wf : State.reset.inBuf.wf ∧ State.reset.outBuf.wf := ⟨List.Pairwise.nil, List.Pairwise.nil⟩

end Sys2Proof.Machine
end

