-- ==== Sys2Proof/Laws/PerInstr.lean ====
section
/-! SUPPORT. One statement about every command as syntax, made command by command: its command word is well formed and
is the opcode table's word for it (spec/opcode_table.json, 30_encoding.md R83). -/

namespace Sys2Proof.Laws.CommandWord

/-- The word spec/opcode_table.json gives each row ("match"). -/
def tableWord : Instr → Word
  | .ecbEnc => 0x00000000
  | .ecbDec => 0x00000001
  | .cbcEnc => 0x00000002
  | .cbcDec => 0x00000003
  | .ctrEnc => 0x00000004
  | .ctrDec => 0x00000005
  | .expand => 0x00000008
  | .sbox   => 0x00000009
  | .fEval  => 0x0000000A
  | .ksEval => 0x0000000B
  | .blkEnc => 0x0000000C
  | .blkDec => 0x0000000D

/-- The command's word is the table's, and it is well formed. -/
def Statement (i : Instr) : Prop :=
  i.wellFormed = true ∧ encode i = tableWord i ∧ commandWordWellFormed (encode i) = true

theorem ecbEnc : Statement .ecbEnc := ⟨rfl, rfl, rfl⟩
theorem ecbDec : Statement .ecbDec := ⟨rfl, rfl, rfl⟩
theorem cbcEnc : Statement .cbcEnc := ⟨rfl, rfl, rfl⟩
theorem cbcDec : Statement .cbcDec := ⟨rfl, rfl, rfl⟩
theorem ctrEnc : Statement .ctrEnc := ⟨rfl, rfl, rfl⟩
theorem ctrDec : Statement .ctrDec := ⟨rfl, rfl, rfl⟩
theorem expand : Statement .expand := ⟨rfl, rfl, rfl⟩
theorem sbox : Statement .sbox := ⟨rfl, rfl, rfl⟩
theorem fEval : Statement .fEval := ⟨rfl, rfl, rfl⟩
theorem ksEval : Statement .ksEval := ⟨rfl, rfl, rfl⟩
theorem blkEnc : Statement .blkEnc := ⟨rfl, rfl, rfl⟩
theorem blkDec : Statement .blkDec := ⟨rfl, rfl, rfl⟩

end Sys2Proof.Laws.CommandWord
end

