-- ==== Sys2Proof/Tests/Slice0.lean ====
section
/-! SUPPORT. Tests on small concrete states, every expected value from spec/95_test_vectors.md or worked by hand from
the rule named, and one witness for each statement that has hypotheses. The tables are the candidate tables of
40_round_function.md, which are not normative: they stand here only because 95_test_vectors.md gives its vectors for
them. -/

namespace Sys2Proof.Tests

open Sys2Proof Sys2Proof.Machine

/-! ### Concrete states -/

/-- The candidate tables of 40_round_function.md, KEY_W = 9 and BUF_BYTES = 6. -/
def cand : Params :=
  { sbox1 := #v[5, 2, 1, 6, 3, 4, 7, 0, 1, 4, 6, 2, 0, 7, 5, 3]
    sbox2 := #v[4, 0, 6, 5, 7, 1, 3, 2, 5, 3, 0, 7, 6, 2, 1, 4]
    keyExtra := 0
    bufGroups := 1 }

/-- The state after reset on the candidate implementation. -/
def fresh : State := { State.reset with params := cand }

/-- An idle core set up for a data command: KEY, ROUNDS, IV, LEN and IN from entry 0. -/
def bench (key : BitVec 32) (rounds : BitVec 16) (iv : BitVec 12) (bytes : List Byte) : State :=
  { fresh with key, rounds, iv, len := BitVec.ofNat 11 bytes.length, inBuf := Memory.writeBytes [] 0 bytes }

/-- An idle core set up for a diagnostic command: KEY, ROUNDS, DA, DB. -/
def probe (key : BitVec 32) (rounds da : BitVec 16) (db : BitVec 8) : State := { fresh with key, rounds, da, db }

/-- The core running the command `i` it has just accepted. -/
def running (i : Instr) (s : State) : State := s.acceptCommand (encode i)

/-- The core with `xs` coming from outside next. -/
def feed (xs : List Input) (s : State) : State := { s with inputs := xs }

/-- What a run of one command leaves, read through `f`. -/
def after {α : Type} (o : Host.Outcome State Fault Refusal) (f : State → α) : Option α :=
  match o with
  | .next t => some (f t)
  | .fault _ | .refused _ => none

/-- RES after the diagnostic command `i` on `s`. -/
def resOf (i : Instr) (s : State) : Option (BitVec 12) := after (exec i (running i s)) State.res

/-- OUT after the data command `i` on `s`. -/
def outOf (i : Instr) (s : State) : Option (List Byte) :=
  after (exec i (running i s)) fun t => t.outBuf.map Prod.snd

/-- The STATUS word after `n` steps. -/
def statusAfter (n : Nat) (s : State) : Option Word := after (core.run n s) fun t : State => t.status.word

/-- The bus's response after `n` steps. -/
def rspAfter (n : Nat) (s : State) : Option (Option Response) := after (core.run n s) fun t : State => t.rsp

/-! ### Well-formedness: a term that each check refuses (30_encoding.md R84, 20_memory.md R62) -/

theorem test_reserved_bit_word_is_ill_formed : commandWordWellFormed 0x00000010 = false := by decide
theorem test_top_bit_word_is_ill_formed : commandWordWellFormed 0x80000000 = false := by decide
theorem test_reserved_ops_are_ill_formed :
    [0x6, 0x7, 0xE, 0xF].map commandWordWellFormed = [false, false, false, false] := by decide
theorem test_narrow_access_is_ill_formed : (Access.read 0x0004 8).wellFormed = false := by decide
theorem test_misaligned_access_is_ill_formed : (Access.write 0x0006 32 0).wellFormed = false := by decide
theorem test_aligned_access_is_well_formed : (Access.write 0x0008 32 0).wellFormed = true := by decide

/-! ### Decoding: words written bit by bit from 30_encoding.md R81–R83, and the opcode table -/

theorem test_decode_cbc_dec : decode 0b00000000000000000000000000000011 = .ok .cbcDec := by rfl
theorem test_decode_ctr_enc : decode 0b00000000000000000000000000000100 = .ok .ctrEnc := by rfl
theorem test_decode_f_eval : decode 0b00000000000000000000000000001010 = .ok .fEval := by rfl
theorem test_decode_ks_eval : decode 0b00000000000000000000000000001011 = .ok .ksEval := by rfl
theorem test_decode_blk_enc : decode 0b00000000000000000000000000001100 = .ok .blkEnc := by rfl
theorem test_decode_reserved_op : decode 0b00000000000000000000000000001110 = .error .badCmd := by rfl
theorem test_decode_reserved_bit : decode 0b00000000000000000000000000010000 = .error .badCmd := by rfl

theorem test_table_words_decode :
    (List.range 16).map (decodeTableWord 32) =
      [some .ecbEnc, some .ecbDec, some .cbcEnc, some .cbcDec, some .ctrEnc, some .ctrDec, none, none,
        some .expand, some .sbox, some .fEval, some .ksEval, some .blkEnc, some .blkDec, none, none] := by decide

/-- The command placed at reset is the one the next step runs: a next state for each of the twelve rows. -/
theorem test_placed_words_run_from_reset :
    [0, 1, 2, 3, 4, 5, 8, 9, 10, 11, 12, 13].map
        (fun w => after (step (State.reset.withFetchWord 32 w)) fun t => (t.opr.toNat, t.status.word)) =
      [0, 1, 2, 3, 4, 5, 8, 9, 10, 11, 12, 13].map fun w => some (w, 2#32) := by decide

/-! ### Round function and key schedule (95_test_vectors.md V1, V2, V3) -/

theorem test_expansion_table_rows :
    (List.range 64).map (fun r => (expandHalf (BitVec.ofNat 6 r)).toNat) =
      [0x00, 0x01, 0x02, 0x03, 0x28, 0x29, 0x2A, 0x2B, 0x14, 0x15, 0x16, 0x17, 0x3C, 0x3D, 0x3E, 0x3F] ++
      [0x40, 0x41, 0x42, 0x43, 0x68, 0x69, 0x6A, 0x6B, 0x54, 0x55, 0x56, 0x57, 0x7C, 0x7D, 0x7E, 0x7F] ++
      [0x80, 0x81, 0x82, 0x83, 0xA8, 0xA9, 0xAA, 0xAB, 0x94, 0x95, 0x96, 0x97, 0xBC, 0xBD, 0xBE, 0xBF] ++
      [0xC0, 0xC1, 0xC2, 0xC3, 0xE8, 0xE9, 0xEA, 0xEB, 0xD4, 0xD5, 0xD6, 0xD7, 0xFC, 0xFD, 0xFE, 0xFF] := by
  decide

theorem test_expand_writes_res : resOf .expand (probe 0 0 0xFF99 0) = some 0x055 := by decide
theorem test_sbox_a5 : resOf .sbox (probe 0 0 0x00A5 0) = some 0x031 := by decide
theorem test_sbox_reads_the_low_byte : resOf .sbox (probe 0 0 0xFF70 0) = some 0x004 := by decide
theorem test_f_eval_26_65 : resOf .fEval (probe 0 0 0x26 0x65) = some 0x004 := by decide
theorem test_f_eval_collision : resOf .fEval (probe 0 0 0x15 0xAA) = some 0x005 := by decide
theorem test_subkeys_181 :
    [0, 1, 2, 3, 4, 5, 6, 7, 8, 9, 10, 11, 20, 65535].map (fun i => (subkey 181 i).toNat) =
      [0x2D, 0x5A, 0xB5, 0x6A, 0xD5, 0xAA, 0x55, 0xAB, 0x56, 0xAD, 0x2D, 0x5A, 0x2D, 0xAA] := by decide

theorem test_subkeys_256 :
    [0, 1, 2, 3, 4, 5, 6, 7, 8, 9, 10, 11, 20, 65535].map (fun i => (subkey 256 i).toNat) =
      [0x40, 0x80, 0x00, 0x01, 0x02, 0x04, 0x08, 0x10, 0x20, 0x40, 0x40, 0x80, 0x40, 0x04] := by decide

/-- 95_test_vectors.md V4: a wide key. -/
theorem test_subkeys_0x200 :
    (List.range 10).map (fun i => (subkey 0x200 i).toNat) =
      [0x80, 0x00, 0x01, 0x02, 0x04, 0x08, 0x10, 0x20, 0x40, 0x80] := by decide

theorem test_ks_eval_writes_res : resOf .ksEval (probe 181 0 3 0) = some 0x06A := by decide
theorem test_ks_eval_uses_all_of_da : resOf .ksEval (probe 73 0 65535 0) = some 0x049 := by decide

/-! ### Block packer (95_test_vectors.md V5) -/

theorem test_pack_groups :
    bytesToBlocks [0x12, 0x34, 0x56, 0x00, 0x0F, 0xF0, 0xFF, 0xF0, 0x00] =
      [0x123, 0x456, 0x000, 0xFF0, 0xFFF, 0x000] := by decide

theorem test_unpack_groups :
    blocksToBytes [0xABC, 0xDEF, 0x00F, 0xF00] = [0xAB, 0xCD, 0xEF, 0x00, 0xFF, 0x00] := by decide

/-! ### Rounds and block transforms (95_test_vectors.md V4, V6, V7) -/

theorem test_enc_rounds :
    [encRound cand 0x000 0x00, encRound cand 0xFFF 0xFF, encRound cand 0x000 0x5A, encRound cand 0x726 0x65] =
      [0x02C, 0xFD3, 0x020, 0x998] := by decide

theorem test_dec_rounds :
    [decRound cand 0x000 0x00, decRound cand 0xFFF 0xFF, decRound cand 0x000 0x5A] = [0xB00, 0x4FF, 0x800] := by
  decide

theorem test_blk_enc_four_rounds : resOf .blkEnc (probe 181 4 0xF414 0) = some 0x7B7 := by decide
theorem test_blk_enc_wide_key : encBlock cand 0x200 3 0x000 = 0x4B0 := by decide
theorem test_blk_dec_four_rounds : resOf .blkDec (probe 181 4 0x05E0 0) = some 0x000 := by decide +kernel
theorem test_blk_dec_of_zero : resOf .blkDec (probe 181 4 0x0000 0) = some 0xDC3 := by decide +kernel

/-! ### Data commands (95_test_vectors.md W1, W2, V9–V11) -/

theorem test_ecb_enc_w1 : outOf .ecbEnc (bench 181 4 0 [0x00, 0x00, 0x00]) = some [0x5E, 0x05, 0xE0] := by decide
theorem test_ecb_enc_repeats :
    outOf .ecbEnc (bench 181 4 0 [0x41, 0x42, 0x43, 0x41, 0x42, 0x42]) =
      some [0x7B, 0x73, 0x63, 0x7B, 0x7C, 0x38] := by decide
theorem test_ecb_dec_v9 : outOf .ecbDec (bench 511 10 0 [0x0D, 0xF5, 0xAD]) = some [0xAB, 0xCD, 0xEF] := by decide +kernel
theorem test_cbc_enc_w2 : outOf .cbcEnc (bench 73 3 3852 [0x41, 0x42, 0x43]) = some [0x8B, 0xCD, 0xD7] := by decide
theorem test_cbc_enc_two_groups :
    outOf .cbcEnc (bench 181 4 0 [0x41, 0x42, 0x44, 0x41, 0x42, 0x43]) =
      some [0x7B, 0x7E, 0xFF, 0xA7, 0xB9, 0xF5] := by decide
theorem test_cbc_dec_two_groups :
    outOf .cbcDec (bench 181 4 0 [0x7B, 0x7A, 0xBE, 0x2F, 0x7C, 0xDD]) =
      some [0x41, 0x42, 0x43, 0x41, 0x42, 0x43] := by decide +kernel
theorem test_cbc_dec_zero_rounds :
    outOf .cbcDec (bench 0 0 0xABC [0xB9, 0xFF, 0xC9, 0x84, 0x02, 0xFC]) =
      some [0x12, 0x34, 0x56, 0x78, 0x9A, 0xBC] := by decide
theorem test_ctr_enc_wraps :
    outOf .ctrEnc (bench 0 0 0xFFE [0x12, 0x34, 0x56, 0x78, 0x9A, 0xBC]) =
      some [0xED, 0xDB, 0xA9, 0x78, 0x9A, 0xBD] := by decide
theorem test_ctr_enc_keystream :
    outOf .ctrEnc (bench 73 3 4095 [0x41, 0x42, 0x43, 0x44, 0x45, 0x46]) =
      some [0xD2, 0x42, 0xAC, 0xDB, 0xED, 0x9D] := by decide
theorem test_ctr_dec_keystream :
    outOf .ctrDec (bench 181 4 0 [0x00, 0x00, 0x00, 0x00, 0x00, 0x00]) =
      some [0x5E, 0x0B, 0xE8, 0x2D, 0x24, 0xD3] := by decide

/-! ### Acceptance, bus and reset (95_test_vectors.md V12–V14, P4) -/

theorem test_status_success :
    statusAfter 2 (feed [wr .cmd 0, .engine] (bench 0 0 0 [1, 2, 3])) = some 0x00000002 := by decide
theorem test_status_while_running :
    statusAfter 1 (feed [wr .cmd 0, .engine] (bench 0 0 0 [1, 2, 3])) = some 0x00000001 := by decide
theorem test_status_len_align :
    statusAfter 1 (feed [wr .cmd 0] { fresh with len := 4 }) = some 0x00000036 := by decide
theorem test_status_len_range_wins :
    statusAfter 1 (feed [wr .cmd 0] { fresh with len := 1024 }) = some 0x00000026 := by decide
theorem test_status_bad_cmd_wins :
    statusAfter 1 (feed [wr .cmd 6] { fresh with len := 4 }) = some 0x00000016 := by decide
theorem test_status_reserved_bit :
    statusAfter 1 (feed [wr .cmd 0x10] { fresh with len := 3 }) = some 0x00000016 := by decide
theorem test_diagnostic_ignores_len :
    statusAfter 2 (feed [wr .cmd 8, .engine] { fresh with len := 4 }) = some 0x00000002 := by decide
theorem test_overrun_status :
    statusAfter 3 (feed [wr .cmd 0, wr .key 5, .engine] (bench 0 0 0 [1, 2, 3])) = some 0x0000000A := by decide

theorem test_bus_errors :
    [0x0006, 0x0024, 0x1018].map (fun a => rspAfter 1 (feed [.access (.read a 32)] fresh)) =
      [some (some (.busError 0x0006)), some (some (.busError 0x0024)), some (some (.busError 0x1018))] := by decide
theorem test_status_ignores_writes :
    rspAfter 2 (feed [wr .status 0xFF, rd .status] fresh) = some (some (.data 0)) := by decide
theorem test_cmd_reads_zero : rspAfter 1 (feed [rd .cmd] fresh) = some (some (.data 0)) := by decide
theorem test_rounds_stores_16_bits :
    rspAfter 2 (feed [wr .rounds 0x12345, rd .rounds] fresh) = some (some (.data 0x2345)) := by decide
theorem test_iv_stores_12_bits :
    rspAfter 2 (feed [wr .iv 0xFFFF, rd .iv] fresh) = some (some (.data 0x0FFF)) := by decide
theorem test_in_stores_8_bits :
    rspAfter 2 (feed [wr (.inEntry 0) 0x1AB, rd (.inEntry 0)] fresh) = some (some (.data 0xAB)) := by decide
theorem test_copy_moves_the_result :
    rspAfter 3 (feed (copyOut 1 ++ [rd (.inEntry 0)]) { fresh with outBuf := [(0, 0x5E)] }) =
      some (some (.data 0x5E)) := by decide
/-- The transactions that 95_test_vectors.md P1, P2 write out. -/
theorem test_setup_and_fill_transactions :
    setup 181 4 0xABC 3 ++ fillFrom 0 [0x12, 0x34] ++ cmd .cbcEnc =
      [.access (.write 0x0008 32 0x000000B5), .access (.write 0x000C 32 0x00000004),
        .access (.write 0x0010 32 0x00000ABC), .access (.write 0x0014 32 0x00000003),
        .access (.write 0x1000 32 0x12), .access (.write 0x1004 32 0x34),
        .access (.write 0x0000 32 0x00000002)] := by decide
theorem test_reset_reads_zero :
    [Location.status, .key, .rounds, .iv, .len, .da, .db, .res].map (fun l => rspAfter 1 (feed [rd l] State.reset)) =
      List.replicate 8 (some (some (.data 0))) := by decide
theorem test_reset_in_reads_fault : step (feed [rd (.inEntry 0)] fresh) = .fault (.uninit 0x1000) := by rfl
theorem test_reset_out_reads_fault : step (feed [rd (.outEntry 5)] fresh) = .fault (.uninit 0x2014) := by rfl

/-! ### Witnesses

Two checks a kernel can evaluate, and the lemmas that they give the premises `Ready` and `Executing`. -/

/-- The part of the invariant that speaks of values alone. -/
abbrev valuesSound (s : State) : Prop :=
  s.inBuf.wf ∧ s.outBuf.wf ∧ (∀ c ∈ s.inBuf, c.1 < s.params.bufBytes) ∧ (∀ c ∈ s.outBuf, c.1 < s.params.bufBytes) ∧
    s.key.toNat < 2 ^ s.params.keyW ∧ s.status.errCode.toNat ≤ 3 ∧
    (s.status.err = true ↔ s.status.errCode ≠ 0) ∧ (s.status.err = true → s.status.done = true)

/-- Entry `k` of BLK, as bytes, is entry `k` of IN, or the missing value is recorded. -/
def entryLoaded (s : State) (k : Nat) : Bool :=
  match s.inBuf.read k with
  | some b => decide ((blocksToBytes s.blk)[k]? = some b)
  | none => decide (Fault.uninit (inAddr k) ∈ s.recorded)

/-- An idle core out of reset is ready. -/
abbrev idleSound (s : State) : Prop :=
  valuesSound s ∧ s.phase = .idle ∧ s.status.busy = false ∧ s.resetLine = false ∧ s.blk = [] ∧ s.cblk = []

/-- A core that runs `i`, out of reset. -/
abbrev busySound (i : Instr) (s : State) : Prop :=
  valuesSound s ∧ s.phase = .busy ∧ s.status.busy = true ∧ s.status.done = false ∧ s.resetLine = false ∧
    s.opr = i.opcode ∧
    (i.isData = true → (s.len.toNat ≤ s.params.bufBytes ∧ s.len.toNat % 3 = 0) ∧
      s.blk.length = 2 * (s.len.toNat / 3) ∧ (∀ k, k < s.len.toNat → entryLoaded s k = true) ∧
      s.cblk = if i = .cbcDec then s.blk else []) ∧
    (i.isData = false → s.blk = [] ∧ s.cblk = [])

theorem ready_of {s : State} (h : idleSound s) : s.Ready := by
  obtain ⟨⟨a, b, c, d, e, f, g, j⟩, ph, nb, rl, bl, cb⟩ := h
  exact ⟨⟨a, b, c, d, e, by simp [ph, nb], by simp [nb], g, f, j, fun _ => ⟨bl, cb⟩, by simp [ph], by simp [rl]⟩, ph, rl⟩

theorem executing_of {i : Instr} {s : State} (h : busySound i s) : s.Executing i := by
  obtain ⟨⟨a, b, c, d, e, f, g, j⟩, ph, bb, nd, rl, op, hd, hg⟩ := h
  refine ⟨⟨a, b, c, d, e, by simp [ph, bb], fun _ => nd, g, f, j, by simp [ph], fun _ => ⟨i, op, fun h => ?_, hg⟩,
    by simp [rl]⟩, ph, op⟩
  obtain ⟨hl, hn, hk, hc⟩ := hd h
  refine ⟨hl, hn, fun k x hx hr => ?_, fun k hx hr => ?_, hc⟩
  · have := hk k hx; simpa [entryLoaded, hr] using this
  · have := hk k hx; simpa [entryLoaded, hr] using this

theorem ready_feed {xs : List Input} {s : State} (h : idleSound s) : (feed xs s).Ready := ready_of (s := feed xs s) h

/-- The bytes of the longest input on the candidate implementation. -/
def six : List Byte := [0x41, 0x42, 0x43, 0x41, 0x42, 0x42]

theorem witness_executing_diagnostics (i : Instr) (h : i.isData = false) :
    (running i (probe 181 4 0xFCF 0x65)).Executing i := by
  apply executing_of; revert h; cases i <;> decide

theorem witness_executing_data (i : Instr) (h : i.isData = true) :
    (running i (bench 181 4 0xFFE six)).Executing i ∧ (running i (bench 181 4 0xFFE six)).HoldsIn six := by
  have hold : ∀ j : Instr, (running j (bench 181 4 0xFFE six)).HoldsIn six := by
    intro j; unfold State.HoldsIn; cases j <;> decide
  refine ⟨executing_of ?_, hold i⟩
  revert h; cases i <;> decide

/-- The plain decision of `HoldsIn` on a concrete state. -/
theorem holds_in_of {s : State} {bytes : List Byte}
    (h : bytes.length = s.len.toNat ∧ ∀ k, k < s.len.toNat → s.inBuf.read k = bytes[k]?) : s.HoldsIn bytes := h

/-- Premises of `ExpandWritesTheWiredBits`. -/
theorem witness_expand : (running .expand (probe 181 4 0xFCF 0x65)).Executing .expand :=
  witness_executing_diagnostics _ rfl

/-- Premises of `SboxReadsBothTables`. -/
theorem witness_sbox : (running .sbox (probe 181 4 0xFCF 0x65)).Executing .sbox :=
  witness_executing_diagnostics _ rfl

/-- Premises of `FEvalMixesExpandsAndSubstitutes`. -/
theorem witness_f_eval : (running .fEval (probe 181 4 0xFCF 0x65)).Executing .fEval :=
  witness_executing_diagnostics _ rfl

/-- Premises of `KsEvalWritesTheSubkey`: below and above the round index 2, where its clauses meet. -/
theorem witness_ks_eval :
    (running .ksEval (probe 181 4 1 0)).Executing .ksEval ∧ (running .ksEval (probe 181 4 2 0)).Executing .ksEval ∧
      (running .ksEval (probe 511 4 65535 0)).Executing .ksEval :=
  ⟨executing_of (by decide), executing_of (by decide), executing_of (by decide)⟩

/-- Premises of `BlkEncAppliesTheRoundsAscending`, with zero rounds as well. -/
theorem witness_blk_enc :
    (running .blkEnc (probe 181 4 0xF414 0)).Executing .blkEnc ∧
      (running .blkEnc (probe 181 0 0xF414 0)).Executing .blkEnc :=
  ⟨executing_of (by decide), executing_of (by decide)⟩

/-- Premises of `BlkDecAppliesTheRoundsDescending`, with zero rounds as well. -/
theorem witness_blk_dec :
    (running .blkDec (probe 181 4 0x05E0 0)).Executing .blkDec ∧
      (running .blkDec (probe 181 0 0x05E0 0)).Executing .blkDec :=
  ⟨executing_of (by decide), executing_of (by decide)⟩

/-- Premises of `SboxOfTheMixedValueIsFEval`: 95_test_vectors.md V2, E(0x26) XOR 0x65 = 0xCF. -/
theorem witness_sbox_of_the_mixed_value :
    (running .fEval (probe 0 0 0x26 0x65)).Executing .fEval ∧ (running .sbox (probe 0 0 0xCF 0)).Executing .sbox ∧
      (running .sbox (probe 0 0 0xCF 0)).params = (running .fEval (probe 0 0 0x26 0x65)).params ∧
      (running .sbox (probe 0 0 0xCF 0)).da.extractLsb' 0 8 =
        expandHalf ((running .fEval (probe 0 0 0x26 0x65)).da.extractLsb' 0 6) ^^^
          (running .fEval (probe 0 0 0x26 0x65)).db :=
  ⟨executing_of (by decide), executing_of (by decide), rfl, by decide⟩

/-- Premises of `NarrowKeySubkeySelectsKeyBits` and `NarrowKeyNeedsNoTruncation`: the largest narrow key, and a round
index for each clause at the ends of its range. -/
theorem witness_narrow_key :
    (511#32).toNat < 512 ∧ 0 % 10 = 0 ∧ 1 % 10 = 1 ∧ 2 ≤ 2 % 10 ∧ 2 ≤ 65535 % 10 ∧ 2 ≤ 9 % 10 ∧ 0 < 8 ∧ 7 < 8 := by
  decide

/-- Premises of `PackerMapsAreInverse` and of `PackingKeepsTheGroupValue` (its last group): no group, and two groups. -/
theorem witness_packer :
    ([] : List Byte).length % 3 = 0 ∧ six.length % 3 = 0 ∧ ([] : List Block).length % 2 = 0 ∧
      ([0x414, 0x243] : List Block).length % 2 = 0 ∧ 1 < six.length / 3 := by decide

/-- Premises of `BlkDecReturnsTheBlockOfBlkEnc`: 95_test_vectors.md V7, 0x000 gives 0x5E0. -/
theorem witness_blk_round_trip :
    (running .blkEnc (probe 181 4 0x000 0)).Executing .blkEnc ∧
      (running .blkDec (probe 181 4 0x5E0 0)).Executing .blkDec ∧
      resOf .blkEnc (probe 181 4 0x000 0) = some ((running .blkDec (probe 181 4 0x5E0 0)).da.extractLsb' 0 12) :=
  ⟨executing_of (by decide), executing_of (by decide), by decide⟩

/-- Premises of `EcbEncEncryptsEachBlock`. -/
theorem witness_ecb_enc :
    (running .ecbEnc (bench 181 4 0xFFE six)).Executing .ecbEnc ∧
      (running .ecbEnc (bench 181 4 0xFFE six)).HoldsIn six := witness_executing_data _ rfl

/-- Premises of `EcbDecDecryptsEachBlock`. -/
theorem witness_ecb_dec :
    (running .ecbDec (bench 181 4 0xFFE six)).Executing .ecbDec ∧
      (running .ecbDec (bench 181 4 0xFFE six)).HoldsIn six := witness_executing_data _ rfl

/-- Premises of `CbcEncChainsTheCiphertext`. -/
theorem witness_cbc_enc :
    (running .cbcEnc (bench 181 4 0xFFE six)).Executing .cbcEnc ∧
      (running .cbcEnc (bench 181 4 0xFFE six)).HoldsIn six := witness_executing_data _ rfl

/-- Premises of `CbcDecChainsTheOriginalCiphertext`. -/
theorem witness_cbc_dec :
    (running .cbcDec (bench 181 4 0xFFE six)).Executing .cbcDec ∧
      (running .cbcDec (bench 181 4 0xFFE six)).HoldsIn six := witness_executing_data _ rfl

/-- Premises of `CtrEncXorsTheKeystream`: the counter wraps at the third block. -/
theorem witness_ctr_enc :
    (running .ctrEnc (bench 181 4 0xFFE six)).Executing .ctrEnc ∧
      (running .ctrEnc (bench 181 4 0xFFE six)).HoldsIn six := witness_executing_data _ rfl

/-- Premises of `CtrDecXorsTheSameKeystream`. -/
theorem witness_ctr_dec :
    (running .ctrDec (bench 181 4 0xFFE six)).Executing .ctrDec ∧
      (running .ctrDec (bench 181 4 0xFFE six)).HoldsIn six := witness_executing_data _ rfl

/-- The premises of the statements about a data command also hold with LEN = 0. -/
theorem witness_empty_input (i : Instr) (h : i.isData = true) :
    (running i (bench 181 4 0 [])).Executing i ∧ (running i (bench 181 4 0 [])).HoldsIn [] := by
  have hold : ∀ j : Instr, (running j (bench 181 4 0 [])).HoldsIn [] := by
    intro j; apply holds_in_of; cases j <;> decide
  refine ⟨executing_of ?_, hold i⟩
  revert h; cases i <;> decide

/-- Premises of `DataCommandCompletesOverUnwrittenInput`: no byte of IN has been written. -/
theorem witness_unwritten_input :
    Instr.ctrEnc.isData = true ∧ (running .ctrEnc { fresh with len := 3 }).Executing .ctrEnc ∧
      2 < (running .ctrEnc { fresh with len := 3 }).len.toNat ∧
      (running .ctrEnc { fresh with len := 3 }).inBuf.read 0 = none ∧
      (running .ctrEnc { fresh with len := 3 }).inBuf.read 2 = none :=
  ⟨rfl, executing_of (by decide), by decide, by decide, by decide⟩

/-- Premises of `ZeroRoundsEcbCopiesInToOut`, for both commands. -/
theorem witness_zero_rounds :
    ((running .ecbEnc (bench 181 0 0 six)).Executing .ecbEnc ∧ (running .ecbEnc (bench 181 0 0 six)).rounds = 0 ∧
      (running .ecbEnc (bench 181 0 0 six)).HoldsIn six) ∧
    ((running .ecbDec (bench 181 0 0 six)).Executing .ecbDec ∧ (running .ecbDec (bench 181 0 0 six)).rounds = 0 ∧
      (running .ecbDec (bench 181 0 0 six)).HoldsIn six) :=
  ⟨⟨executing_of (by decide), rfl, holds_in_of (by decide)⟩, ⟨executing_of (by decide), rfl, holds_in_of (by decide)⟩⟩

/-- The premises of `DecryptionReturnsThePlaintext` for one pair of commands and one input: `enc` runs over `plain`,
and `dec` over the bytes that `enc` leaves in OUT. -/
def DecryptionPremises (enc dec : Instr) (key : BitVec 32) (rounds : BitVec 16) (iv : BitVec 12)
    (plain cipher : List Byte) : Prop :=
  (running enc (bench key rounds iv plain)).Executing enc ∧ (running enc (bench key rounds iv plain)).HoldsIn plain ∧
    (running dec (bench key rounds iv cipher)).Executing dec ∧
    after (exec enc (running enc (bench key rounds iv plain))) State.outBuf =
      some (running dec (bench key rounds iv cipher)).inBuf

/-- Premises of `DecryptionReturnsThePlaintext`, for each of its pairs: 95_test_vectors.md V9, V10, V11. -/
theorem witness_decryption :
    DecryptionPremises .ecbEnc .ecbDec 181 4 0 [0x41, 0x42, 0x43] [0x7B, 0x73, 0x63] ∧
    DecryptionPremises .cbcEnc .cbcDec 181 4 0 [0x41, 0x42, 0x43, 0x41, 0x42, 0x43]
      [0x7B, 0x7A, 0xBE, 0x2F, 0x7C, 0xDD] ∧
    DecryptionPremises .ctrEnc .ctrDec 73 3 4095 [0x41, 0x42, 0x43, 0x44, 0x45, 0x46]
      [0xD2, 0x42, 0xAC, 0xDB, 0xED, 0x9D] ∧
    DecryptionPremises .ctrEnc .ctrEnc 73 3 4095 [0x41, 0x42, 0x43, 0x44, 0x45, 0x46]
      [0xD2, 0x42, 0xAC, 0xDB, 0xED, 0x9D] ∧
    DecryptionPremises .ctrDec .ctrDec 0 0 0xFFE [0x12, 0x34, 0x56, 0x78, 0x9A, 0xBC]
      [0xED, 0xDB, 0xA9, 0x78, 0x9A, 0xBD] :=
  ⟨⟨executing_of (by decide), holds_in_of (by decide), executing_of (by decide), by decide⟩,
    ⟨executing_of (by decide), holds_in_of (by decide), executing_of (by decide), by decide⟩,
    ⟨executing_of (by decide), holds_in_of (by decide), executing_of (by decide), by decide⟩,
    ⟨executing_of (by decide), holds_in_of (by decide), executing_of (by decide), by decide⟩,
    ⟨executing_of (by decide), holds_in_of (by decide), executing_of (by decide), by decide⟩⟩

/-- Premises of `EcbBlocksAreIndependent`: 95_test_vectors.md V9; blocks 0 and 2 of the first input are equal, and the
two inputs differ in block 3 only. -/
theorem witness_ecb_independent :
    (running .ecbEnc (bench 181 4 0 [0x41, 0x42, 0x43, 0x41, 0x42, 0x43])).Executing .ecbEnc ∧
      (running .ecbEnc (bench 181 4 0 six)).Executing .ecbEnc ∧
      SameParameters (running .ecbEnc (bench 181 4 0 [0x41, 0x42, 0x43, 0x41, 0x42, 0x43]))
        (running .ecbEnc (bench 181 4 0 six)) ∧
      (running .ecbEnc (bench 181 4 0 [0x41, 0x42, 0x43, 0x41, 0x42, 0x43])).HoldsIn
        [0x41, 0x42, 0x43, 0x41, 0x42, 0x43] ∧
      (running .ecbEnc (bench 181 4 0 six)).HoldsIn six :=
  ⟨executing_of (by decide), executing_of (by decide), ⟨rfl, rfl, rfl, rfl, rfl, rfl, rfl⟩, holds_in_of (by decide),
    holds_in_of (by decide)⟩

/-- Premises of `CbcDifferenceReachesEveryLaterBlock` with k = 0 and two groups. -/
theorem witness_cbc_difference :
    (running .cbcEnc (bench 181 4 0 six)).Executing .cbcEnc ∧
      (running .cbcEnc (bench 181 4 0 [0x51, 0x42, 0x43, 0x41, 0x42, 0x42])).Executing .cbcEnc ∧
      SameParameters (running .cbcEnc (bench 181 4 0 six))
        (running .cbcEnc (bench 181 4 0 [0x51, 0x42, 0x43, 0x41, 0x42, 0x42])) ∧
      (running .cbcEnc (bench 181 4 0 six)).HoldsIn six ∧
      (running .cbcEnc (bench 181 4 0 [0x51, 0x42, 0x43, 0x41, 0x42, 0x42])).HoldsIn
        [0x51, 0x42, 0x43, 0x41, 0x42, 0x42] ∧
      0 < 2 * ((running .cbcEnc (bench 181 4 0 six)).len.toNat / 3) ∧
      (bytesToBlocks six).getD 0 0 ≠ (bytesToBlocks [0x51, 0x42, 0x43, 0x41, 0x42, 0x42]).getD 0 0 ∧
      ∀ j, j ≠ 0 →
        (bytesToBlocks six).getD j 0 = (bytesToBlocks [0x51, 0x42, 0x43, 0x41, 0x42, 0x42]).getD j 0 := by
  refine ⟨executing_of (by decide), executing_of (by decide), ⟨rfl, rfl, rfl, rfl, rfl, rfl, rfl⟩,
    holds_in_of (by decide), holds_in_of (by decide), by decide, by decide, fun j hj => ?_⟩
  match j with
  | 0 => exact absurd rfl hj
  | 1 | 2 | 3 => decide
  | _ + 4 => rfl

/-- Premises of `CommandsEvaluateTheRoundFunctionExactlyAsOften`, for every command. -/
theorem witness_work (i : Instr) : ∃ s : State, s.Executing i := by
  by_cases h : i.isData = true
  · exact ⟨_, (witness_executing_data i h).1⟩
  · exact ⟨_, witness_executing_diagnostics i (by simpa using h)⟩

/-- The candidate tables with entry 3 of S1 changed from 6 to 0. -/
def candOther : Params := { cand with sbox1 := #v[5, 2, 1, 0, 3, 4, 7, 0, 1, 4, 6, 2, 0, 7, 5, 3] }

/-- Premises of the second clause of `CommandsEvaluateTheRoundFunctionExactlyAsOften`: one round of BLK_ENC reads entry
5 of S1 (0x00 and subkey 0x5A), and SBOX of 0xCF reads entry 12, so the changed entry is read by neither. -/
theorem witness_work_agrees :
    (running .blkEnc (probe 181 1 0 0)).Executing .blkEnc ∧ (running .sbox (probe 0 0 0xCF 0)).Executing .sbox ∧
      commandEvals .blkEnc (running .blkEnc (probe 181 1 0 0)) = [(0x00, 0x5A)] ∧
      roundF candOther 0x00 0x5A = roundF cand 0x00 0x5A ∧ candOther ≠ cand ∧
      commandEvals .sbox (running .sbox (probe 0 0 0xCF 0)) = [] ∧ substitute candOther 0xCF = substitute cand 0xCF :=
  ⟨executing_of (by decide), executing_of (by decide), by decide, by decide, by decide, by decide, by decide⟩

/-- Premises of its third clause: the second round of BLK_ENC (block 0x020, subkey 0xB5) reads the changed entry. -/
theorem witness_work_last_differs :
    (running .blkEnc (probe 181 2 0 0)).Executing .blkEnc ∧
      commandEvals .blkEnc (running .blkEnc (probe 181 2 0 0)) = [(0x00, 0x5A)] ++ [(0x20, 0xB5)] ∧
      roundF candOther 0x00 0x5A = roundF cand 0x00 0x5A ∧ roundF candOther 0x20 0xB5 ≠ roundF cand 0x20 0xB5 :=
  ⟨executing_of (by decide), by decide, by decide, by decide⟩

/-- An idle core with another history than `bench`'s: other bytes in OUT, another RES, another OPR, OVR set. -/
def otherHistory : State :=
  { bench 181 4 0 six with
    outBuf := [(5, 0xFF)], res := 0xABC, opr := 0xC, status := { Status.reset with ovr := true }, draws := 7 }

/-- Premises of `ResultDependsOnTheCommandInputsOnly`. -/
theorem witness_result_depends :
    (bench 181 4 0 six).Ready ∧ otherHistory.Ready ∧ (bench 181 4 0 six).LenLegal ∧
      SameParameters (bench 181 4 0 six) otherHistory ∧ (bench 181 4 0 six).HoldsIn six ∧
      otherHistory.HoldsIn six :=
  ⟨ready_of (by decide), ready_of (by decide), by unfold State.LenLegal; decide,
    ⟨rfl, rfl, rfl, rfl, rfl, rfl, rfl⟩, holds_in_of (by decide), holds_in_of (by decide)⟩

/-- Premises of `LegalCommandStarts` and of `IssuedCommandIsExecutedAndCompletes`. -/
theorem witness_legal_command (i : Instr) :
    (feed [wr .cmd (encode i), .engine] (bench 181 4 0 six)).Ready ∧
      (feed [wr .cmd (encode i), .engine] (bench 181 4 0 six)).LenLegal ∧
      (feed [wr .cmd (encode i), .engine] (bench 181 4 0 six)).HoldsIn six :=
  ⟨ready_feed (by decide), show (bench 181 4 0 six).LenLegal by unfold State.LenLegal; decide,
    show (bench 181 4 0 six).HoldsIn six from holds_in_of (by decide)⟩

/-- Premises of `RefusedCommandChangesOnlyStatus`: the ends of each case's range. A word under one case is under no
other: code 1 needs a word that is 6, 7, 14, 15 or at least 16, codes 2 and 3 one that is at most 5, and LEN decides
between those two. -/
theorem witness_refused_command :
    (feed [.access (.write 0x0000#16 32 16)] fresh).Ready ∧ 16 ≤ (16#32).toNat ∧
      16 ≤ (0xFFFFFFFF#32).toNat ∧ (6#32).toNat ∈ [0x6, 0x7, 0xE, 0xF] ∧ (15#32).toNat ∈ [0x6, 0x7, 0xE, 0xF] ∧
      (feed [.access (.write 0x0000#16 32 5)] { fresh with len := 7 }).Ready ∧ (5#32).toNat ≤ 5 ∧
      cand.bufBytes < (7#11).toNat ∧ cand.bufBytes < (2047#11).toNat ∧
      (feed [.access (.write 0x0000#16 32 0)] { fresh with len := 5 }).Ready ∧ (0#32).toNat ≤ 5 ∧
      (5#11).toNat ≤ cand.bufBytes ∧ (5#11).toNat % 3 ≠ 0 ∧ (1#11).toNat ≤ cand.bufBytes ∧ (1#11).toNat % 3 ≠ 0 :=
  ⟨ready_of (by decide), by decide, by decide, by decide, by decide, ready_of (by decide), by decide, by decide,
    by decide, ready_of (by decide), by decide, by decide, by decide, by decide, by decide⟩

/-- Premises of `WriteWhileBusyOnlySetsOverrun` and of `ReadOnlyLocationsIgnoreWrites`: each kind of location, with
the first and the last entry of the buffers. -/
theorem witness_write_while_busy :
    (running .ecbEnc (bench 181 4 0 six)).Inv ∧ (running .ecbEnc (bench 181 4 0 six)).status.busy = true ∧
      (running .ecbEnc (bench 181 4 0 six)).resetLine = false ∧
      (∀ l ∈ [Location.cmd, .key, .rounds, .iv, .len, .da, .db, .inEntry 0, .inEntry 5], l.writable = true) ∧
      (∀ l ∈ [Location.status, .res, .outEntry 0, .outEntry 5], l.writable = false) ∧
      Location.exists cand (.inEntry 5) ∧ Location.exists cand (.outEntry 5) ∧ Location.exists cand .cmd :=
  ⟨(executing_of (i := .ecbEnc) (by decide)).sound, rfl, rfl, by decide, by decide,
    show 5 < cand.bufBytes by decide, show 5 < cand.bufBytes by decide, trivial⟩

/-- Premises of `RegistersStoreTheirFieldAndReadItBack`: every register. -/
theorem witness_registers :
    [Location.key, .rounds, .iv, .len, .da, .db].map (registerWidth cand) =
      [some 9, some 16, some 12, some 11, some 16, some 8] ∧
    ∀ l : Location, ∀ v : Word, (feed [wr l v, rd l] (bench 181 4 0 six)).Ready :=
  ⟨by decide, fun _ _ => ready_feed (by decide)⟩

/-- Premises of `InEntriesStoreOneByte`: the first and the last entry; an OUT entry with a value is in
`witness_copy`. -/
theorem witness_in_entries :
    (feed [wr (.inEntry 0) 0x1AB, rd (.inEntry 0)] fresh).Ready ∧ 0 < cand.bufBytes ∧
      (feed [wr (.inEntry 5) 0x1AB, rd (.inEntry 5)] fresh).Ready ∧ 5 < cand.bufBytes :=
  ⟨ready_of (by decide), by decide, ready_of (by decide), by decide⟩

/-- Premises of `StatusReadsAsLaidOut`, and of the second clause of `ReadOnlyLocationsIgnoreWrites`. -/
theorem witness_status_and_cmd :
    (feed [rd .status] fresh).resetLine = false ∧ (feed [rd .status] fresh).inputs = rd .status :: [] ∧
      (feed [rd .cmd] fresh).resetLine = false ∧ (feed [rd .cmd] fresh).inputs = rd .cmd :: [] :=
  ⟨rfl, rfl, rfl, rfl⟩

/-- Premises of `BusErrorHasNoEffect`: refused accesses at the ends of each reserved range, and the accesses next to
them that are not refused (BUF_BYTES = 6). -/
theorem witness_bus_error :
    (∀ a ∈ [Access.read 0x0004 16, .read 0x0006 32, .write 0x0024 32 1, .read 0x0FFC 32, .read 0x1018 32,
        .read 0x1FFC 32, .read 0x2018 32, .read 0x2FFC 32, .write 0x3000 32 0, .read 0xFFFC 32],
      Refused cand a) ∧
    (∀ a ∈ [Access.read 0x0000 32, .read 0x0020 32, .write 0x1000 32 1, .write 0x1014 32 1, .read 0x2000 32,
        .write 0x2014 32 1], ¬ Refused cand a) := by
  unfold Refused
  decide

/-- Premises of `ReadsHaveNoSideEffect`: a read that returns data, and one that the bus refuses. -/
theorem witness_reads :
    after (step (feed [rd .key] (bench 181 4 0 six))) State.rsp = some (some (.data 181)) ∧
      after (step (feed [.access (.read 0x0006 32)] fresh)) State.rsp = some (some (.busError 0x0006)) :=
  ⟨by decide, by decide⟩

/-- Premises of `ResultReadsWhileBusyComplete`. -/
theorem witness_busy_reads :
    (feed [rd .res] (running .ecbEnc (bench 181 4 0 six))).Inv ∧
      (feed [rd .res] (running .ecbEnc (bench 181 4 0 six))).status.busy = true ∧
      (feed [rd (.outEntry 5)] (running .ecbEnc (bench 181 4 0 six))).Inv ∧ 5 < cand.bufBytes :=
  ⟨(executing_of (i := .ecbEnc) (by decide)).sound, rfl, (executing_of (i := .ecbEnc) (by decide)).sound, by decide⟩

/-- Premises of `UnwrittenEntryReadFaults`: entries with and without a value, in both buffers. -/
theorem witness_unwritten_entry :
    (bench 181 4 0 [1, 2, 3]).resetLine = false ∧ (bench 181 4 0 [1, 2, 3]).status.busy = false ∧
      (bench 181 4 0 [1, 2, 3]).inBuf.read 2 = some 3 ∧ (bench 181 4 0 [1, 2, 3]).inBuf.read 3 = none ∧
      otherHistory.outBuf.read 5 = some 0xFF ∧ otherHistory.outBuf.read 0 = none ∧ 5 < cand.bufBytes := by decide

/-- Premises of `StepExecutesTheCommandInOpr`, both clauses. -/
theorem witness_step :
    (running .fEval (probe 0 0 1 1)).phase = .busy ∧
      decode (0#28 ++ (running .fEval (probe 0 0 1 1)).opr) = .ok .fEval ∧
      (running .fEval (probe 0 0 1 1)).inputs = [] ∧
      (feed [.engine] (running .fEval (probe 0 0 1 1))).inputs = .engine :: [] :=
  ⟨rfl, rfl, rfl, rfl⟩

/-- Premises of `PlacedCommandIsExecuted`: the longest legal LEN of the candidate implementation. -/
theorem witness_placed : Instr.ecbEnc.isData = true ∧ (bench 181 4 0 six).LenLegal :=
  ⟨rfl, by unfold State.LenLegal; decide⟩

/-- Premises of `WaitEndsOnTheReadThatShowsDone`: two polls before the completion. -/
theorem witness_wait :
    (feed (wait 2) (running .ecbEnc (bench 181 4 0 six))).Executing .ecbEnc ∧
      (feed (wait 2) (running .ecbEnc (bench 181 4 0 six))).inputs = wait 2 ++ [] :=
  ⟨executing_of (by decide), rfl⟩

/-- Premises of `CopyMovesAnOutByteToIn`: the last entry. -/
theorem witness_copy :
    (feed [rd (.outEntry 5), .writeRead (inAddr 5)] otherHistory).Ready ∧ 5 < cand.bufBytes ∧
      otherHistory.outBuf.read 5 = some 0xFF :=
  ⟨ready_of (by decide), by decide, by decide⟩

/-- Premises of `InputsAreStableDuringACommand`: a write of KEY while the command runs. -/
theorem witness_stable :
    (feed [wr .key 5] (running .ecbEnc (bench 181 4 0 six))).Executing .ecbEnc ∧ wr .key 5 ≠ .engine ∧
      (∀ b, wr .key 5 ≠ .reset b) ∧
      after (step (feed [wr .key 5] (running .ecbEnc (bench 181 4 0 six)))) State.key = some 181 :=
  ⟨executing_of (by decide), by decide, by decide, by decide⟩

/-- Premises of `ResultsStayUntilTheNextCommand` and of `StepKeepsTheInvariant`: a write of KEY to an idle core. -/
theorem witness_results_stay :
    (feed [wr .key 5] otherHistory).Inv ∧ (feed [wr .key 5] otherHistory).phase = .idle ∧
      (∀ rest, (feed [wr .key 5] otherHistory).inputs ≠ .reset true :: rest) ∧
      after (step (feed [wr .key 5] otherHistory)) State.key = some 5 :=
  ⟨(ready_feed (by decide)).sound, rfl, fun _ h => by simp [feed, wr] at h, by decide⟩

/-- Premises of `StepKeepsTheTables`. -/
theorem witness_tables : after (step (feed [.engine] fresh)) State.params = some cand := rfl

/-- Premises of the first clause of `ResetClearsTheCore`: reset during a command. -/
theorem witness_reset_clears :
    (feed [.reset true] (running .ecbEnc (bench 181 4 0 six))).inputs = .reset true :: [] ∧
      after (step (feed [.reset true] (running .ecbEnc (bench 181 4 0 six)))) State.resetLine = some true :=
  ⟨rfl, rfl⟩

/-- Premises of the second clause of `ResetClearsTheCore`: a core with reset asserted is sound. -/
theorem witness_during_reset :
    { fresh with resetLine := true }.Inv ∧ { fresh with resetLine := true }.resetLine = true := by
  obtain ⟨a, b, c, d, e, f, g, j, k, l, m, _, _⟩ := (ready_of (s := fresh) (by decide)).sound
  exact ⟨⟨a, b, c, d, e, f, g, j, k, l, m, (fun h => nomatch h), fun _ => ⟨rfl, rfl, rfl, rfl⟩⟩, rfl⟩

/-- Premises of `StepStopsOnlyOnAnUnwrittenRead` and of `EveryCommandCompletes`: a sound state whose next step
faults. -/
theorem witness_stops :
    (feed [rd (.inEntry 0)] fresh).Inv ∧ step (feed [rd (.inEntry 0)] fresh) = .fault (.uninit (inAddr 0)) :=
  ⟨(ready_of (by decide)).sound, rfl⟩

/-- Premises of `EveryCommandCompletes`: a sound state from which a command runs to completion. -/
theorem witness_completes :
    (feed [wr .cmd 0, .engine] (bench 181 4 0 six)).Inv ∧
      after (step (running .ecbEnc (bench 181 4 0 six))) State.phase = some .idle :=
  ⟨(ready_of (by decide)).sound, rfl⟩

/-- Premises of `EveryCommandCompletes`, last part: a running command, and no reset in the inputs. -/
theorem witness_completes_without_reset :
    (feed [wr .key 5, .engine] (running .ecbEnc (bench 181 4 0 six))).Inv ∧
      Input.reset true ∉ (feed [wr .key 5, .engine] (running .ecbEnc (bench 181 4 0 six))).inputs ∧
      (feed [wr .key 5, .engine] (running .ecbEnc (bench 181 4 0 six))).status.busy = true :=
  ⟨(executing_of (i := .ecbEnc) (by decide)).sound, by decide, rfl⟩

/-- Premises of `RegisterReadsReturnTheStoredField`: KEY while a command runs, RES of an idle core. -/
theorem witness_register_reads :
    (feed [rd .key] (running .ecbEnc (bench 181 4 0 six))).resetLine = false ∧
      (feed [rd .key] (running .ecbEnc (bench 181 4 0 six))).status.busy = true ∧
      (feed [rd .key] (running .ecbEnc (bench 181 4 0 six))).key.toNat = 181 ∧
      (feed [rd .res] otherHistory).resetLine = false ∧ (feed [rd .res] otherHistory).res.toNat = 0xABC ∧
      (feed [rd .res] otherHistory).status.busy = false := by decide

/-- Premises of `HostReadsTheResultOfTheCommand`: a diagnostic command, and a data command at both ends of OUT. -/
theorem witness_host_reads_the_result :
    (feed [.engine, rd .res] (running .fEval (probe 0 0 0x26 0x65))).Executing .fEval ∧
      (feed [.engine, rd (.outEntry 0)] (running .ecbEnc (bench 181 4 0 six))).Executing .ecbEnc ∧
      (feed [.engine, rd (.outEntry 5)] (running .ecbEnc (bench 181 4 0 six))).Executing .ecbEnc ∧
      5 < (running .ecbEnc (bench 181 4 0 six)).len.toNat :=
  ⟨executing_of (by decide), executing_of (by decide), executing_of (by decide), by decide⟩

/-- F_EVAL's worked example in 40_round_function.md R110, as the host sees it: RES reads 0x004. -/
theorem test_host_reads_f_eval :
    rspAfter 2 (feed [.engine, rd .res] (running .fEval (probe 0 0 0x26 0x65))) = some (some (.data 0x004)) := by
  decide

end Sys2Proof.Tests
end

section
/-! SUPPORT. What one step can do, said once: the obligations about every step are case analyses over
`step_next_cases`. -/

namespace Sys2Proof.Machine

/-- The bus answers only for locations that exist on the implementation (20_memory.md R61–R63). -/
theorem exists_of_target {p : Params} {a : Access} {loc : Location} (h : Access.target p a = some loc) :
    loc.exists p := by
  unfold Access.target at h
  split_ifs at h with hw
  have hal : a.addr.toNat % 4 = 0 := by
    simp only [Access.wellFormed, Bool.and_eq_true, beq_iff_eq] at hw
    exact hw.2
  exact (locate_some h hal).1

/-- What a host access that answers a next state can do: it changes the model's record of the access alone, or it
writes a location that exists, out of reset. -/
theorem hostAccess_next_cases {a : Access} {s t : State} (h : s.hostAccess a = .next t) :
    (∃ rsp v n, t = { s with rsp := rsp, lastRead := v, draws := n }) ∨
    (∃ loc data, s.resetLine = false ∧ loc.exists s.params ∧ t = (s.hostWrite loc data).respond .written) := by
  rcases hostAccess_cases a s with ⟨-, ha⟩ | ⟨-, -, ha⟩ | ⟨loc, -, -, -, -, -, ha⟩ |
    ⟨loc, -, -, data, hr, ht, -, ha⟩ <;> rw [ha] at h
  · cases h; exact .inl ⟨none, s.lastRead, s.draws, rfl⟩
  · cases h; exact .inl ⟨some (.busError a.addr), s.lastRead, s.draws, rfl⟩
  · rcases hostRead_cases loc s with ⟨v, n, hv⟩ | ⟨_, -, -, hf⟩ | ⟨_, -, -, -, hf⟩
    · rw [hv] at h; cases h; exact .inl ⟨some (.data v), v, n, rfl⟩
    · rw [hf] at h; cases h
    · rw [hf] at h; cases h
  · cases h; exact .inr ⟨loc, data, hr, exists_of_target ht, rfl⟩

/-- The OP map is read back from the command it gives. -/
theorem opcode_of_ofOpcode {op : BitVec 4} {i : Instr} (h : Instr.ofOpcode op = some i) : op = i.opcode := by
  unfold Instr.ofOpcode at h
  split at h <;> cases h <;> rfl

/-- What the engine's turn can do when it answers a next state: nothing, or the command that OPR holds. -/
theorem engineTurn_next_cases {s t : State} (h : engineTurn s = .next t) :
    t = s ∨ ∃ i, s.phase = .busy ∧ s.opr = i.opcode ∧ exec i s = .next t := by
  rcases engineTurn_cases s with ⟨-, he⟩ | ⟨i, hp, ho, he⟩ | ⟨-, -, he⟩ <;> rw [he] at h
  · cases h; exact .inl rfl
  · exact .inr ⟨i, hp, opcode_of_ofOpcode ho, h⟩
  · cases h

theorem State.takeInput_of_nil {s : State} (h : s.inputs = []) : s.takeInput = s := by
  cases s; cases h; rfl

theorem State.takeInput_of_cons {s : State} {x : Input} {rest : List Input} (h : s.inputs = x :: rest) :
    s.takeInput = { s with inputs := rest } := by
  simp only [State.takeInput, h, List.tail_cons]

/-- A step is the effect of one input, the engine's turn where none is left, on the state with it taken. -/
theorem step_eq_applyInput (s : State) :
    ∃ x, (s.inputs = [] ∧ x = .engine ∨ s.inputs.head? = some x) ∧ step s = applyInput x s.takeInput := by
  cases hi : s.inputs with
  | nil => exact ⟨.engine, .inl ⟨rfl, rfl⟩, by rw [step_nil hi, State.takeInput_of_nil hi]; rfl⟩
  | cons x rest => exact ⟨x, .inr rfl, by rw [step_cons hi, State.takeInput_of_cons hi]⟩

/-- What a step that answers a next state can do, on the state with its input taken: it changes the model's record of
an access alone, writes a location that exists, changes the reset input, or executes the running command. -/
theorem step_next_cases {s t : State} (h : step s = .next t) :
    (∃ rsp v n, t = { s.takeInput with rsp := rsp, lastRead := v, draws := n }) ∨
    (∃ loc data, s.resetLine = false ∧ loc.exists s.params ∧
      t = (s.takeInput.hostWrite loc data).respond .written) ∨
    (∃ asserted, s.inputs.head? = some (.reset asserted) ∧ t = s.takeInput.resetInput asserted) ∨
    (∃ i, s.phase = .busy ∧ s.opr = i.opcode ∧ (s.inputs = [] ∨ s.inputs.head? = some .engine) ∧
      exec i s.takeInput = .next t) := by
  obtain ⟨x, hx, hs⟩ := step_eq_applyInput s
  rw [hs] at h
  cases x with
  | access a => exact (hostAccess_next_cases h).imp id .inl
  | writeRead addr => exact (hostAccess_next_cases h).imp id .inl
  | reset asserted =>
    cases h
    exact .inr (.inr (.inl ⟨asserted, by simpa using hx, rfl⟩))
  | engine =>
    rcases engineTurn_next_cases h with rfl | ⟨i, hp, ho, he⟩
    · exact .inl ⟨s.rsp, s.lastRead, s.draws, rfl⟩
    · exact .inr (.inr (.inr ⟨i, hp, ho, hx.imp And.left id, he⟩))

end Sys2Proof.Machine
end

section
/-! SUPPORT. The packer undoes itself on whole groups, and what acceptance loads for the command it starts. -/

namespace Sys2Proof.Machine

/-! ### The packer, one group -/

theorem unpackFirst_packFirst (b0 b1 : Byte) : unpackFirst (packFirst b0 b1) = b0 := by
  ext i hi
  interval_cases i <;> simp [unpackFirst, packFirst]

theorem unpackSecond_pack (b0 b1 b2 : Byte) : unpackSecond (packFirst b0 b1) (packSecond b1 b2) = b1 := by
  ext i hi
  interval_cases i <;> simp [unpackSecond, packFirst, packSecond]

theorem unpackThird_packSecond (b1 b2 : Byte) : unpackThird (packSecond b1 b2) = b2 := by
  ext i hi
  interval_cases i <;> simp [unpackThird, packSecond]

/-- 42_block_packer.md R143 on the bytes of whole groups. -/
theorem blocksToBytes_bytesToBlocks : ∀ bytes : List Byte, bytes.length % 3 = 0 →
    blocksToBytes (bytesToBlocks bytes) = bytes
  | [], _ => rfl
  | [_], h => by simp at h
  | [_, _], h => by simp at h
  | b0 :: b1 :: b2 :: rest, h => by
    have hrest : rest.length % 3 = 0 := by simp only [List.length_cons] at h; omega
    simp only [bytesToBlocks, blocksToBytes, unpackFirst_packFirst, unpackSecond_pack, unpackThird_packSecond,
      blocksToBytes_bytesToBlocks rest hrest]

/-! ### Acceptance -/

theorem mem_missingInputs {s : State} {k : Nat} (hk : k < s.len.toNat) (hr : s.inBuf.read k = none) :
    Fault.uninit (inAddr k) ∈ s.missingInputs := by
  simp only [State.missingInputs, List.mem_map, List.mem_filter, List.mem_range]
  exact ⟨k, ⟨hk, by rw [hr]; rfl⟩, rfl⟩

/-- A data command that starts with a legal LEN has its buffers loaded. -/
theorem runsData_startCommand {i : Instr} {s : State} (hd : i.isData = true) (hl : s.LenLegal) :
    (s.startCommand i).RunsData i := by
  have hblk : (s.startCommand i).blk = bytesToBlocks s.inputBytes := by
    simp only [State.startCommand_blk, State.blocksAtStart, hd, if_true]
  have hbytes : blocksToBytes (bytesToBlocks s.inputBytes) = s.inputBytes :=
    blocksToBytes_bytesToBlocks _ (by rw [inputBytes_length]; exact hl.2)
  refine ⟨hl, ?_, fun k b hk hr => ?_, fun k hk hr => ?_, ?_⟩
  · rw [hblk, bytesToBlocks_length, inputBytes_length, State.startCommand_len]
  · have hr' : s.inBuf.read k = some b := hr
    rw [hblk, hbytes, inputBytes_getElem? s hk, hr', Option.getD_some]
  · simp only [State.startCommand_recorded, hd, if_true, List.mem_append]
    exact .inr (mem_missingInputs hk hr)
  · rw [hblk]; rfl

/-- A command that starts runs: OPR holds it and the block buffers are loaded for it. -/
theorem runs_startCommand {i : Instr} {s : State} (hl : i.isData = true → s.LenLegal) : (s.startCommand i).Runs i where
  latched := rfl
  data hd := runsData_startCommand hd (hl hd)
  diag hd := by
    have hne : i ≠ .cbcDec := by rintro rfl; cases hd
    simp [State.blocksAtStart, State.copyAtStart, hd, hne]

end Sys2Proof.Machine
end

section
/-! PROOFS. The invariant (Safety.lean): one lemma for each thing that a step can do, and every step keeps it (O53). -/

namespace Sys2Proof.Machine

/-- What a running command rests on: OPR, the widths, LEN, IN, the block buffers and the record of faults. -/
theorem State.Runs.congr {i : Instr} {s t : State} (h : s.Runs i) (opr : t.opr = s.opr) (params : t.params = s.params)
    (len : t.len = s.len) (inBuf : t.inBuf = s.inBuf) (blk : t.blk = s.blk) (cblk : t.cblk = s.cblk)
    (recorded : t.recorded = s.recorded) : t.Runs i := by
  obtain ⟨hopr, hdata, hdiag⟩ := h
  refine ⟨opr.trans hopr, fun hd => ?_, fun hd => by rw [blk, cblk]; exact hdiag hd⟩
  obtain ⟨hlen, hblk, hloaded, hmissing, hcopy⟩ := hdata hd
  exact ⟨by rw [State.LenLegal, len, params]; exact hlen, by rwa [blk, len], by rwa [blk, len, inBuf],
    by rwa [len, inBuf, recorded], by rwa [blk, cblk]⟩

variable {s : State}

/-- The input list, the response, the host's copy and the counter of free values are free. -/
theorem inv_setRecord (h : s.Inv) (inputs : List Input) (rsp : Option Response) (lastRead : Word) (draws : Nat) :
    { s with inputs := inputs, rsp := rsp, lastRead := lastRead, draws := draws }.Inv :=
  { h with busyRuns := fun hp => (h.busyRuns hp).imp fun _ hi => hi.congr rfl rfl rfl rfl rfl rfl rfl }

theorem inv_takeInput (h : s.Inv) : s.takeInput.Inv := inv_setRecord h s.inputs.tail s.rsp s.lastRead s.draws

theorem inv_respond (h : s.Inv) (r : Response) : (s.respond r).Inv :=
  inv_setRecord h s.inputs (some r) s.lastRead s.draws

/-- While a command runs, reset is not asserted: it would have abandoned the command. -/
theorem resetLine_of_busy (h : s.Inv) (hb : s.status.busy = true) : s.resetLine = false := by
  by_contra hr
  obtain ⟨hst, -⟩ := h.inReset (by simpa using hr)
  rw [hst] at hb
  cases hb

theorem phase_of_not_busy (h : s.Inv) (hb : s.status.busy = false) : s.phase = .idle := by
  cases hp : s.phase
  · rfl
  · rw [h.phaseIsBusy.mp hp] at hb; cases hb

theorem not_busy_of_ready (h : s.Ready) : s.status.busy = false := by
  by_contra hb
  have hp : s.phase = .busy := h.sound.phaseIsBusy.mpr (by simpa using hb)
  rw [h.idle] at hp
  cases hp

theorem inv_dropWrite (h : s.Inv) (hb : s.status.busy = true) : s.dropWrite.Inv :=
  { h with
    busyRuns := fun hp => (h.busyRuns hp).imp fun _ hi => hi.congr rfl rfl rfl rfl rfl rfl rfl
    inReset := by simp [resetLine_of_busy h hb] }

theorem inv_startCommand {i : Instr} (h : s.Inv) (hl : i.isData = true → s.LenLegal) (hr : s.resetLine = false) :
    (s.clearStatus.startCommand i).Inv :=
  { h with
    phaseIsBusy := by simp
    busyNotDone := by simp
    errHasCode := by simp
    errCodeLegal := by simp
    errIsDone := by simp
    idleEmpty := fun hp => by cases hp
    busyRuns := fun _ => ⟨i, runs_startCommand hl⟩
    inReset := by simp [hr] }

theorem inv_raiseCmdError (h : s.Inv) (e : CmdError) (hb : s.status.busy = false) (hr : s.resetLine = false) :
    (s.clearStatus.raiseCmdError e).Inv :=
  { h with
    phaseIsBusy := by simp [phase_of_not_busy h hb]
    busyNotDone := by simp
    errHasCode := by cases e <;> simp [errorCode]
    errCodeLegal := by cases e <;> simp [errorCode]
    errIsDone := by simp
    busyRuns := by simp [phase_of_not_busy h hb]
    inReset := by simp [hr] }

theorem inv_acceptCommand (h : s.Inv) (w : Word) (hb : s.status.busy = false) (hr : s.resetLine = false) :
    (s.acceptCommand w).Inv := by
  rcases acceptCommand_cases w s with ⟨i, hc, ha⟩ | ⟨e, -, ha⟩ <;> rw [ha]
  · exact inv_startCommand h (checkCommand_ok hc).2 hr
  · exact inv_raiseCmdError h e hb hr

theorem inv_writeIn {k : Nat} (h : s.Inv) (hk : k < s.params.bufBytes) (v : Byte) (hb : s.status.busy = false)
    (hr : s.resetLine = false) : { s with inBuf := s.inBuf.write k v }.Inv :=
  { h with
    inCanonical := Memory.wf_write h.inCanonical k v
    inCapacity := fun c hc => by
      rcases Memory.mem_write hc with rfl | hc
      · exact hk
      · exact h.inCapacity c hc
    busyRuns := by simp [phase_of_not_busy h hb]
    inReset := by simp [hr] }

theorem inv_setRegisters (h : s.Inv) (hb : s.status.busy = false) {key : BitVec 32} (rounds : BitVec 16)
    (iv : BitVec 12) (len : BitVec 11) (da : BitVec 16) (db : BitVec 8) (hkey : key.toNat < 2 ^ s.params.keyW) :
    { s with key := key, rounds := rounds, iv := iv, len := len, da := da, db := db }.Inv :=
  { h with
    keyFits := hkey
    busyRuns := by simp [phase_of_not_busy h hb] }

theorem inv_hostWrite {loc : Location} (h : s.Inv) (data : Word) (hr : s.resetLine = false)
    (hl : loc.exists s.params) : (s.hostWrite loc data).Inv := by
  rcases hostWrite_cases loc data s with ⟨hb, -, hw⟩ | ⟨-, hw⟩ | ⟨hb, -, hw⟩ | ⟨hb, k, rfl, hw⟩ |
    ⟨hb, key, rounds, iv, len, da, db, hkey, hw⟩ <;> rw [hw]
  · exact inv_dropWrite h hb
  · exact h
  · exact inv_acceptCommand h data hb hr
  · exact inv_writeIn h hl _ hb hr
  · refine inv_setRegisters h hb rounds iv len da db ?_
    rcases hkey with rfl | rfl
    · exact h.keyFits
    · exact keyField_lt s.params data

/-- The values that reset gives meet every clause by themselves, whatever the state before. -/
theorem inv_assertReset : s.assertReset.Inv := by
  constructor <;> simp

theorem inv_releaseReset (h : s.Inv) : s.releaseReset.Inv :=
  { h with
    busyRuns := fun hp => (h.busyRuns hp).imp fun _ hi => hi.congr rfl rfl rfl rfl rfl rfl rfl
    inReset := by simp }

theorem inv_resetInput (h : s.Inv) (asserted : Bool) : (s.resetInput asserted).Inv := by
  cases asserted
  · exact inv_releaseReset h
  · exact inv_assertReset

theorem inv_completeData (h : s.Inv) (out : List Byte) (hb : s.status.busy = true) (hl : s.LenLegal) :
    (s.completeData out).Inv :=
  { h with
    outCanonical := Memory.wf_writeBytes _ h.outCanonical 0
    outCapacity := fun c hc => by
      rcases Memory.mem_writeBytes hc with hc | ⟨-, hc⟩
      · exact h.outCapacity c hc
      · have hlen : s.len.toNat ≤ s.params.bufBytes := hl.1
        rw [List.length_take] at hc
        simp only [State.completeData_params]
        omega
    phaseIsBusy := by simp
    busyNotDone := by simp
    errIsDone := by simp
    idleEmpty := by simp
    busyRuns := by simp
    inReset := by simp [resetLine_of_busy h hb] }

theorem inv_completeDiag (h : s.Inv) (v : BitVec 12) (hb : s.status.busy = true) (hblk : s.blk = [] ∧ s.cblk = []) :
    (s.completeDiag v).Inv :=
  { h with
    phaseIsBusy := by simp
    busyNotDone := by simp
    errIsDone := by simp
    idleEmpty := fun _ => hblk
    busyRuns := by simp
    inReset := by simp [resetLine_of_busy h hb] }

/-- A command that the engine executes in a sound state leaves a sound state. -/
theorem inv_exec {i : Instr} {t : State} (h : s.Executing i) (he : exec i s = .next t) : t.Inv := by
  have hb := h.sound.phaseIsBusy.mp h.busy
  rcases exec_cases i s with ⟨hd, out, hx⟩ | ⟨hd, v, hx⟩ <;> rw [hx] at he <;> cases he
  · exact inv_completeData h.sound _ hb ((executing_runs h).data hd).lenLegal
  · exact inv_completeDiag h.sound v hb ((executing_runs h).diag hd)

/-- Settles O53: each thing a step can do keeps the invariant. -/
theorem stepKeepsTheInvariant : Obligations.StepKeepsTheInvariant := by
  intro s t h hstep
  have h₀ := inv_takeInput h
  rcases step_next_cases hstep with ⟨rsp, v, n, rfl⟩ | ⟨loc, data, hr, hl, rfl⟩ | ⟨asserted, -, rfl⟩ |
    ⟨i, hp, ho, -, he⟩
  · exact inv_setRecord h₀ _ rsp v n
  · exact inv_respond (inv_hostWrite h₀ data hr hl) .written
  · exact inv_resetInput h₀ asserted
  · exact inv_exec ⟨h₀, hp, ho⟩ he

end Sys2Proof.Machine
end

section
/-! PROOFS. The host's accesses to the registers and STATUS (10_state.md R21–R36: O34, O35, O36, O38, O56), and the
tables that no step writes (10_state.md R40: O50). -/

namespace Sys2Proof.Machine

/-! ### Fields as words -/

theorem asWord_eq_ofNat {n : Nat} (v : BitVec n) : asWord v = BitVec.ofNat 32 v.toNat :=
  (BitVec.ofNat_toNat 32 v).symm

theorem keyField_toNat (p : Params) (data : Word) : (keyField p data).toNat = data.toNat % 2 ^ p.keyW := by
  rw [keyField, BitVec.toNat_ofNat, Nat.mod_eq_of_lt (lt_of_le_of_lt (Nat.mod_le _ _) data.isLt)]

/-! ### Writes -/

theorem hostWrite_of_busy {s : State} {loc : Location} (hb : s.status.busy = true) (hw : loc.writable = true)
    (data : Word) : s.hostWrite loc data = s.dropWrite := by
  simp only [State.hostWrite, hb, hw, Bool.and_self, if_true]

theorem hostWrite_of_not_busy {s : State} (hb : s.status.busy = false) (loc : Location) (data : Word) :
    s.hostWrite loc data = s.storeAt loc data := by
  simp only [State.hostWrite, hb, Bool.false_and, Bool.false_eq_true, if_false]

theorem hostWrite_of_readOnly {loc : Location} (hw : loc.writable = false) (data : Word) (s : State) :
    s.hostWrite loc data = s := by
  simp only [State.hostWrite, hw, Bool.and_false, Bool.false_eq_true, if_false]
  cases loc with
  | status | res | outEntry => rfl
  | cmd | key | rounds | iv | len | da | db | inEntry => cases hw

/-- Settles O34: a running command shows that reset is not asserted, so the write reaches its location and is
dropped. -/
theorem writeWhileBusyOnlySetsOverrun : Obligations.WriteWhileBusyOnlySetsOverrun := by
  intro s loc data rest h hb hw hl hi
  rw [step_wr (resetLine_of_busy h hb) hl hi, hostWrite_of_busy (s := { s with inputs := rest }) hb hw]
  rfl

/-- Settles O35: the write reaches a location that stores nothing, and CMD holds nothing to read. -/
theorem readOnlyLocationsIgnoreWrites : Obligations.ReadOnlyLocationsIgnoreWrites := by
  intro s rest hr
  refine ⟨fun loc data hw hl hi => ?_, fun hi => ?_⟩
  · rw [step_wr hr hl hi, hostWrite_of_readOnly hw]
    rfl
  · exact ⟨_, step_rd (loc := .cmd) hr trivial hi, rfl⟩

/-! ### Registers -/

/-- The stored field of a read-write parameter register (10_state.md R30–R35), the locations of `registerWidth`. -/
def registerField (s : State) : Location → Option Nat
  | .key => some s.key.toNat
  | .rounds => some s.rounds.toNat
  | .iv => some s.iv.toNat
  | .len => some s.len.toNat
  | .da => some s.da.toNat
  | .db => some s.db.toNat
  | .cmd | .status | .res | .inEntry _ | .outEntry _ => none

theorem exists_of_registerField {s : State} {loc : Location} {field : Nat} (h : registerField s loc = some field)
    (p : Params) : loc.exists p := by
  cases loc with
  | inEntry | outEntry => cases h
  | _ => trivial

/-- A read of a parameter register returns its field zero-extended, BUSY or not (10_state.md R21). -/
theorem hostRead_of_registerField {s : State} {loc : Location} {field : Nat} (h : registerField s loc = some field) :
    s.hostRead loc = .next (s.returnData (BitVec.ofNat 32 field)) := by
  cases loc with
  | key | rounds | iv | len | da | db =>
    cases h
    simp only [State.hostRead, asWord_eq_ofNat]
  | cmd | status | res | inEntry | outEntry => cases h

/-- A read of RES while no command runs returns its field zero-extended (10_state.md R36). -/
theorem hostRead_res {s : State} (hb : s.status.busy = false) :
    s.hostRead .res = .next (s.returnData (BitVec.ofNat 32 s.res.toNat)) := by
  simp only [State.hostRead, hb, Bool.false_eq_true, if_false, asWord_eq_ofNat]

/-- A write of a parameter register stores `data[W−1:0]` in it (10_state.md R21). -/
theorem registerField_storeAt {s : State} {loc : Location} {W : Nat} (h : registerWidth s.params loc = some W)
    (data : Word) : registerField (s.storeAt loc data) loc = some (data.toNat % 2 ^ W) := by
  cases loc with
  | key => cases h; exact congrArg some (keyField_toNat s.params data)
  | rounds | iv | len | da | db => cases h; exact congrArg some (BitVec.toNat_setWidth ..)
  | cmd | status | res | inEntry | outEntry => cases h

/-- A write of a parameter register leaves every other one, and all the rest, as it was (10_state.md R21). -/
theorem storeAt_register {s : State} {loc : Location} {W : Nat} (h : registerWidth s.params loc = some W)
    (data : Word) : ∃ key rounds iv len da db,
      s.storeAt loc data = { s with key := key, rounds := rounds, iv := iv, len := len, da := da, db := db } ∧
      (loc ≠ .key → key = s.key) ∧ (loc ≠ .rounds → rounds = s.rounds) ∧ (loc ≠ .iv → iv = s.iv) ∧
      (loc ≠ .len → len = s.len) ∧ (loc ≠ .da → da = s.da) ∧ (loc ≠ .db → db = s.db) := by
  refine ⟨(s.storeAt loc data).key, (s.storeAt loc data).rounds, (s.storeAt loc data).iv, (s.storeAt loc data).len,
    (s.storeAt loc data).da, (s.storeAt loc data).db, ?_⟩
  cases loc with
  | key | rounds | iv | len | da | db => simp [State.storeAt]
  | cmd | status | res | inEntry | outEntry => cases h

/-- A step on a write of a register to a ready core is the store in that register. -/
theorem step_wr_register {s : State} {loc : Location} {W : Nat} {data : Word} {rest : List Input} (h : s.Ready)
    (hW : registerWidth s.params loc = some W) (hi : s.inputs = wr loc data :: rest) :
    step s = .next ((State.storeAt loc data { s with inputs := rest }).respond .written) := by
  rw [step_wr h.released (exists_of_registerField (registerField_storeAt hW data) _) hi,
    hostWrite_of_not_busy (show { s with inputs := rest }.status.busy = false from not_busy_of_ready h)]

/-- A step on a read of a register returns its field and changes nothing else. -/
theorem step_rd_register {s : State} {loc : Location} {field : Nat} {rest : List Input} (hr : s.resetLine = false)
    (hf : registerField s loc = some field) (hi : s.inputs = rd loc :: rest) :
    step s = .next (State.returnData (BitVec.ofNat 32 field) { s with inputs := rest }) := by
  rw [step_rd hr (exists_of_registerField hf s.params) hi]
  exact hostRead_of_registerField hf

/-- Settles O36: the write stores the field in its register alone, and the read returns that field. -/
theorem registersStoreTheirFieldAndReadItBack : Obligations.RegistersStoreTheirFieldAndReadItBack := by
  intro s loc W data rest h hW hi
  have hwrite := step_wr_register h hW hi
  have hfield := registerField_storeAt (s := { s with inputs := rd loc :: rest }) hW data
  obtain ⟨key, rounds, iv, len, da, db, hstore, hothers⟩ :=
    storeAt_register (s := { s with inputs := rd loc :: rest }) hW data
  rw [hstore] at hwrite hfield
  exact ⟨_, _, hwrite, step_rd_register h.released hfield rfl, rfl, rfl, rfl, rfl, rfl, rfl, rfl, rfl, rfl, rfl, rfl,
    hothers⟩

/-- Settles O56: a read of a register, or of RES while no command runs, returns its field. -/
theorem registerReadsReturnTheStoredField : Obligations.RegisterReadsReturnTheStoredField := by
  intro s loc field rest hr hloc hi
  rcases hloc with hreg | ⟨rfl, rfl, hb⟩
  · have hfield : registerField s loc = some field := by
      simp only [List.mem_cons, Prod.mk.injEq, List.not_mem_nil, or_false] at hreg
      rcases hreg with ⟨rfl, rfl⟩ | ⟨rfl, rfl⟩ | ⟨rfl, rfl⟩ | ⟨rfl, rfl⟩ | ⟨rfl, rfl⟩ | ⟨rfl, rfl⟩ <;> rfl
    exact step_rd_register hr hfield hi
  · rw [step_rd (loc := .res) hr trivial hi]
    exact hostRead_res hb

/-! ### STATUS -/

theorem getLsbD_flagBit (f : Bool) {n : Nat} (hn : n < 32) (j : Nat) :
    (flagBit f n).getLsbD j = (decide (j = n) && f) := by
  simp only [flagBit, BitVec.getLsbD_shiftLeft, BitVec.getLsbD_setWidth, BitVec.getLsbD_ofBool]
  by_cases hj : j = n
  · simp [hj, hn]
  · simp only [hj, decide_false, Bool.false_and, Bool.and_eq_false_iff, Bool.not_eq_false', decide_eq_true_eq,
      decide_eq_false_iff_not]
    omega

theorem getLsbD_errCodeField (code : BitVec 4) (j : Nat) :
    (code.setWidth 32 <<< 4).getLsbD j = (decide (4 ≤ j) && code.getLsbD (j - 4)) := by
  simp only [BitVec.getLsbD_shiftLeft, BitVec.getLsbD_setWidth]
  by_cases hj : j < 32
  · have hin : j - 4 < 32 := by omega
    simp only [hj, hin, ← decide_not, not_lt, decide_true, Bool.true_and]
  · have hout : code.getLsbD (j - 4) = false := BitVec.getLsbD_of_ge code (j - 4) (by omega)
    simp [hj, hout]

/-- The bits of STATUS as read: each flag at its place, ERRCODE in bits 7:4, zero above (10_state.md R25). -/
theorem Status.getLsbD_word (st : Status) (j : Nat) :
    st.word.getLsbD j =
      (decide (j = 0) && st.busy || decide (j = 1) && st.done || decide (j = 2) && st.err || decide (j = 3) && st.ovr ||
        decide (4 ≤ j) && st.errCode.getLsbD (j - 4)) := by
  simp only [Status.word, BitVec.getLsbD_or, getLsbD_errCodeField, getLsbD_flagBit _ (show 0 < 32 by decide),
    getLsbD_flagBit _ (show 1 < 32 by decide), getLsbD_flagBit _ (show 2 < 32 by decide),
    getLsbD_flagBit _ (show 3 < 32 by decide)]

theorem Status.getLsbD_word_of_le (st : Status) {j : Nat} (hj : 4 ≤ j) :
    st.word.getLsbD j = st.errCode.getLsbD (j - 4) := by
  have hflags : j ≠ 0 ∧ j ≠ 1 ∧ j ≠ 2 ∧ j ≠ 3 := by omega
  simp [Status.getLsbD_word, hflags, hj]

/-- Settles O38 by the bits of the word that a read of STATUS returns. -/
theorem statusReadsAsLaidOut : Obligations.StatusReadsAsLaidOut := by
  intro s rest hr hi
  refine ⟨_, s.status.word, step_rd (loc := .status) hr trivial hi, rfl, ?_, ?_, ?_, ?_, ?_, ?_⟩
  · rw [Status.getLsbD_word]; simp
  · rw [Status.getLsbD_word]; simp
  · rw [Status.getLsbD_word]; simp
  · rw [Status.getLsbD_word]; simp
  · apply BitVec.eq_of_getLsbD_eq
    intro j hj
    rw [BitVec.getLsbD_extractLsb', Status.getLsbD_word_of_le _ (by omega), Nat.add_sub_cancel_left]
    simp [hj]
  · apply BitVec.eq_of_getLsbD_eq
    intro j hj
    rw [BitVec.getLsbD_extractLsb', Status.getLsbD_word_of_le _ (by omega), BitVec.getLsbD_of_ge _ _ (by omega)]
    simp

/-! ### The tables -/

theorem acceptCommand_params (w : Word) (s : State) : (s.acceptCommand w).params = s.params := by
  rcases acceptCommand_cases w s with ⟨_, -, ha⟩ | ⟨_, -, ha⟩ <;> rw [ha] <;> rfl

theorem hostWrite_params (loc : Location) (data : Word) (s : State) : (s.hostWrite loc data).params = s.params := by
  rcases hostWrite_cases loc data s with ⟨-, -, hw⟩ | ⟨-, hw⟩ | ⟨-, -, hw⟩ | ⟨-, _, -, hw⟩ |
    ⟨-, _, _, _, _, _, _, -, hw⟩ <;> rw [hw]
  · rfl
  · exact acceptCommand_params data s

theorem resetInput_params (asserted : Bool) (s : State) : (s.resetInput asserted).params = s.params := by
  cases asserted <;> rfl

theorem exec_params {i : Instr} {s t : State} (h : exec i s = .next t) : t.params = s.params := by
  rcases exec_cases i s with ⟨-, _, hx⟩ | ⟨-, _, hx⟩ <;> rw [hx] at h <;> cases h <;> rfl

/-- Settles O50: nothing that a step can do writes the tables or the widths. -/
theorem stepKeepsTheTables : Obligations.StepKeepsTheTables := by
  intro s t hstep
  rcases step_next_cases hstep with ⟨_, _, _, rfl⟩ | ⟨loc, data, -, -, rfl⟩ | ⟨asserted, -, rfl⟩ | ⟨_, -, -, -, he⟩
  · rfl
  · exact hostWrite_params loc data s.takeInput
  · exact resetInput_params asserted s.takeInput
  · exact exec_params (s := s.takeInput) he

end Sys2Proof.Machine
end

section
/-! PROOFS. The memory map and its accesses (20_memory.md R61–R79): the byte order of a group (O12), the buffer entries
(O37, O42), refused accesses (O39), reads (O40, O41), and what stays during a command and after it (O48, O49). -/

namespace Sys2Proof.Machine

/-! ### The byte order of a group -/

/-- The packer keeps the 24-bit value of a group (20_memory.md R65). -/
theorem packFirst_append_packSecond (b0 b1 b2 : Byte) : packFirst b0 b1 ++ packSecond b1 b2 = b0 ++ b1 ++ b2 := by
  apply BitVec.eq_of_getLsbD_eq
  intro i hi
  simp only [BitVec.getLsbD_append]
  interval_cases i <;> simp [packFirst, packSecond]

/-- Group g of the bytes and the blocks 2g, 2g+1 are one 24-bit value; a partial group at the end changes nothing. -/
theorem bytesToBlocks_group : ∀ (bytes : List Byte) (g : Nat), g < bytes.length / 3 →
    (bytesToBlocks bytes).getD (2 * g) 0 ++ (bytesToBlocks bytes).getD (2 * g + 1) 0 =
      bytes.getD (3 * g) 0 ++ bytes.getD (3 * g + 1) 0 ++ bytes.getD (3 * g + 2) 0
  | [], _, h => by simp at h
  | [_], _, h => by simp at h
  | [_, _], _, h => by simp at h
  | b0 :: b1 :: b2 :: _, 0, _ => packFirst_append_packSecond b0 b1 b2
  | _ :: _ :: _ :: rest, g + 1, h => by
    have hrest : g < rest.length / 3 := by simp only [List.length_cons] at h; omega
    exact bytesToBlocks_group rest g hrest

/-- Settles O12: the length of the packed sequence, and the value of each group. -/
theorem packingKeepsTheGroupValue : Obligations.PackingKeepsTheGroupValue :=
  fun bytes g _ hg => ⟨bytesToBlocks_length bytes, bytesToBlocks_group bytes g hg⟩

/-! ### Reads of a buffer entry -/

theorem readEntry_of_some {m : Memory} {k : Nat} {b : Byte} (h : m.read k = some b) (a : Addr) (s : State) :
    s.readEntry m k a = .next (s.returnData (asWord b)) := by
  simp only [State.readEntry, h]

theorem readEntry_of_none {m : Memory} {k : Nat} (h : m.read k = none) (a : Addr) (s : State) :
    s.readEntry m k a = .fault (.uninit a) := by
  simp only [State.readEntry, h]

theorem step_rd_inEntry {s : State} {k : Nat} {rest : List Input} (hr : s.resetLine = false)
    (hk : k < s.params.bufBytes) (hi : s.inputs = rd (.inEntry k) :: rest) :
    step s = State.readEntry s.inBuf k (inAddr k) { s with inputs := rest } :=
  step_rd (loc := .inEntry k) hr hk hi

theorem step_rd_outEntry {s : State} {k : Nat} {rest : List Input} (hr : s.resetLine = false)
    (hk : k < s.params.bufBytes) (hb : s.status.busy = false) (hi : s.inputs = rd (.outEntry k) :: rest) :
    step s = State.readEntry s.outBuf k (outAddr k) { s with inputs := rest } := by
  rw [step_rd (loc := .outEntry k) hr hk hi]
  simp only [State.hostRead, hb, Bool.false_eq_true, if_false]

/-- A step on a read of an IN entry that holds a byte returns it, and changes nothing else (20_memory.md R64, R68). -/
theorem step_rd_inEntry_of_some {s : State} {k : Nat} {b : Byte} {rest : List Input} (hr : s.resetLine = false)
    (hk : k < s.params.bufBytes) (hb : s.inBuf.read k = some b) (hi : s.inputs = rd (.inEntry k) :: rest) :
    step s = .next (State.returnData (asWord b) { s with inputs := rest }) :=
  (step_rd_inEntry hr hk hi).trans (readEntry_of_some hb _ _)

/-- Settles O42: the read of an entry answers by what the entry holds. -/
theorem unwrittenEntryReadFaults : Obligations.UnwrittenEntryReadFaults := by
  intro s k rest hr hk
  refine ⟨fun hi => ?_, fun hi hb => ?_⟩
  · rw [step_rd_inEntry hr hk hi]
    exact ⟨fun hn => readEntry_of_none hn _ _, fun b hs => ⟨_, readEntry_of_some hs _ _, rfl⟩⟩
  · rw [step_rd_outEntry hr hk hb hi]
    exact ⟨fun hn => readEntry_of_none hn _ _, fun b hs => ⟨_, readEntry_of_some hs _ _, rfl⟩⟩

/-- A step on a write of `IN[k]` to a ready core stores `data[7:0]` there. -/
theorem step_wr_inEntry {s : State} {k : Nat} {data : Word} {rest : List Input} (h : s.Ready)
    (hk : k < s.params.bufBytes) (hi : s.inputs = wr (.inEntry k) data :: rest) :
    step s = .next { s with
      inputs := rest
      inBuf := s.inBuf.write k (data.setWidth 8)
      rsp := some .written } := by
  rw [step_wr (loc := .inEntry k) h.released hk hi,
    hostWrite_of_not_busy (show { s with inputs := rest }.status.busy = false from not_busy_of_ready h)]
  rfl

/-- The byte an IN entry stores, as the read of it returns it: `data[7:0]` with zeros above (20_memory.md R64). -/
theorem asWord_setWidth_byte (data : Word) : asWord (data.setWidth 8 : Byte) = BitVec.ofNat 32 (data.toNat % 256) := by
  rw [asWord_eq_ofNat, BitVec.toNat_setWidth]

/-- Settles O37: the write stores one byte, and the read of that entry returns it. -/
theorem inEntriesStoreOneByte : Obligations.InEntriesStoreOneByte := by
  intro s k rest h hk
  refine ⟨fun data hi => ?_, fun b hb hi => ?_⟩
  · have hstored : (s.inBuf.write k (data.setWidth 8)).read k = some (data.setWidth 8) := by
      rw [Memory.read_write, if_pos rfl]
    refine ⟨_, _, step_wr_inEntry h hk hi, step_rd_inEntry_of_some h.released hk hstored rfl, rfl, hstored,
      fun j hj => ?_, rfl, ?_⟩
    · exact (Memory.read_write _ k j _).trans (if_neg hj)
    · exact congrArg (fun v => some (Response.data v)) (asWord_setWidth_byte data)
  · rw [step_rd_outEntry h.released hk (not_busy_of_ready h) hi, readEntry_of_some hb, asWord_eq_ofNat]
    exact ⟨_, rfl, rfl⟩

/-! ### Refused accesses -/

/-- The registers fill the aligned addresses below 0x0024 (20_memory.md R61). -/
theorem registerAt_eq_none_iff {n : Nat} (hal : n % 4 = 0) : registerAt n = none ↔ 0x0024 ≤ n := by
  constructor
  · intro h
    by_contra hlt
    obtain ⟨m, rfl⟩ := Nat.dvd_of_mod_eq_zero hal
    have hm : m < 9 := by omega
    interval_cases m <;> cases h
  · intro hle
    unfold registerAt
    split
    any_goals omega
    rfl

/-- On aligned addresses the map answers `none` exactly on the reserved ranges (20_memory.md R61). -/
theorem locate_eq_none_iff {p : Params} {a : Addr} (hal : a.toNat % 4 = 0) :
    locate p a = none ↔
      (0x0024 ≤ a.toNat ∧ a.toNat ≤ 0x0FFF) ∨ (0x1000 + 4 * p.bufBytes ≤ a.toNat ∧ a.toNat ≤ 0x1FFF) ∨
        (0x2000 + 4 * p.bufBytes ≤ a.toNat ∧ a.toNat ≤ 0x2FFF) ∨ 0x3000 ≤ a.toNat := by
  have hb := p.bufBytes_bounds
  unfold locate
  split_ifs with hreg hin hout
  · rw [registerAt_eq_none_iff hal]; omega
  · simp only [false_iff]; omega
  · simp only [false_iff]; omega
  · simp only [true_iff]; omega

theorem wellFormed_iff (a : Access) : a.wellFormed = true ↔ a.width = 32 ∧ a.addr.toNat % 4 = 0 := by
  simp only [Access.wellFormed, Bool.and_eq_true, beq_iff_eq]

/-- The accesses that reach no location are those that 20_memory.md R61–R63 refuses. -/
theorem target_eq_none_iff (p : Params) (a : Access) : Access.target p a = none ↔ Refused p a := by
  unfold Access.target Refused
  by_cases hw : a.width = 32 ∧ a.addr.toNat % 4 = 0
  · rw [if_pos ((wellFormed_iff a).mpr hw), locate_eq_none_iff hw.2]
    simp only [hw, ne_eq, not_true_eq_false, false_or]
  · rw [if_neg (mt (wellFormed_iff a).mp hw)]
    exact iff_of_true rfl ((not_and_or.mp hw).imp_right .inl)

/-- A read that answers a next state answers with data, and changes the model's record of the access alone. -/
theorem hostRead_next {loc : Location} {s t : State} (h : s.hostRead loc = .next t) :
    ∃ v n, t = { s with rsp := some (.data v), lastRead := v, draws := n } := by
  rcases hostRead_cases loc s with ⟨v, n, hv⟩ | ⟨_, -, -, hf⟩ | ⟨_, -, -, -, hf⟩
  · rw [hv] at h; cases h; exact ⟨v, n, rfl⟩
  · rw [hf] at h; cases h
  · rw [hf] at h; cases h

/-- The bus answers with an error only an access that it refuses (60_exceptions.md R206). -/
theorem target_of_rsp_busError {a : Access} {s t : State} {addr : Addr} (hr : s.resetLine = false)
    (h : s.hostAccess a = .next t) (he : t.rsp = some (.busError addr)) : Access.target s.params a = none := by
  rcases hostAccess_cases a s with ⟨hr', -⟩ | ⟨-, ht, -⟩ | ⟨_, _, _, -, -, -, ha⟩ | ⟨_, _, _, _, -, -, -, ha⟩
  · rw [hr] at hr'; cases hr'
  · exact ht
  · rw [ha] at h
    obtain ⟨v, n, rfl⟩ := hostRead_next h
    cases he
  · rw [ha] at h
    cases h
    cases he

/-- Settles O39: the bus answers with an error exactly where an access reaches no location. -/
theorem busErrorHasNoEffect : Obligations.BusErrorHasNoEffect := by
  intro s a rest hr hi
  rw [step_cons hi, ← target_eq_none_iff]
  refine ⟨fun ht => ?_, fun ht t hstep he => ht (target_of_rsp_busError (s := { s with inputs := rest }) hr hstep he)⟩
  simp only [applyInput, State.hostAccess, hr, ht, Bool.false_eq_true, if_false]
  rfl

/-! ### Reads -/

/-- A read access changes the model's record of the access alone (20_memory.md R68). -/
theorem hostAccess_read_next {addr : Addr} {width : Nat} {s t : State} (h : s.hostAccess (.read addr width) = .next t) :
    ∃ rsp v n, t = { s with rsp := rsp, lastRead := v, draws := n } := by
  rcases hostAccess_cases (.read addr width) s with ⟨-, ha⟩ | ⟨-, -, ha⟩ | ⟨_, _, _, -, -, -, ha⟩ |
    ⟨_, _, _, _, -, -, hwrite, -⟩
  · rw [ha] at h; cases h; exact ⟨_, _, _, rfl⟩
  · rw [ha] at h; cases h; exact ⟨_, _, _, rfl⟩
  · rw [ha] at h
    obtain ⟨v, n, ht⟩ := hostRead_next h
    exact ⟨_, v, n, ht⟩
  · cases hwrite

/-- Settles O40: a step on a read is a read access. -/
theorem readsHaveNoSideEffect : Obligations.ReadsHaveNoSideEffect := by
  intro s t addr width rest hi hstep
  rw [step_cons hi] at hstep
  obtain ⟨rsp, v, n, rfl⟩ := hostAccess_read_next hstep
  rfl

theorem asWord_toNat_lt {n : Nat} (v : BitVec n) : (asWord v).toNat < 2 ^ n := by
  rw [asWord, BitVec.toNat_setWidth]
  exact lt_of_le_of_lt (Nat.mod_le _ _) v.isLt

/-- While a command runs, RES gives a free value of its width (20_memory.md R70). -/
theorem hostRead_res_of_busy {s : State} (hb : s.status.busy = true) :
    s.hostRead .res = .next (s.draw.returnData (asWord (Config.freeResRead s.draws))) := by
  simp only [State.hostRead, hb, if_true]

/-- While a command runs, an OUT entry gives a free byte, written or not (20_memory.md R70). -/
theorem hostRead_outEntry_of_busy {s : State} (hb : s.status.busy = true) (k : Nat) :
    s.hostRead (.outEntry k) = .next (s.draw.returnData (asWord (Config.freeOutRead s.draws))) := by
  simp only [State.hostRead, hb, if_true]

/-- Settles O41: out of reset, which a running command shows, both reads return the free value of the field. -/
theorem resultReadsWhileBusyComplete : Obligations.ResultReadsWhileBusyComplete := by
  intro s rest h hb
  have hr := resetLine_of_busy h hb
  refine ⟨fun hi => ?_, fun k hk hi => ?_⟩
  · rw [step_rd (loc := .res) hr trivial hi, hostRead_res_of_busy (s := { s with inputs := rest }) hb]
    exact ⟨_, _, rfl, rfl, asWord_toNat_lt _, rfl⟩
  · rw [step_rd (loc := .outEntry k) hr hk hi, hostRead_outEntry_of_busy (s := { s with inputs := rest }) hb]
    exact ⟨_, _, rfl, rfl, asWord_toNat_lt _, rfl⟩

/-! ### What stays during a command and after it -/

/-- While a command runs, a host write changes STATUS at most (10_state.md R22, R23). -/
theorem hostWrite_of_busy_status {s : State} (hb : s.status.busy = true) (loc : Location) (data : Word) :
    ∃ st, s.hostWrite loc data = { s with status := st } := by
  cases hw : loc.writable
  · exact ⟨s.status, hostWrite_of_readOnly hw data s⟩
  · exact ⟨s.status.overrun, hostWrite_of_busy hb hw data⟩

/-- While a command runs, a step on an input other than the engine's turn and a change of reset changes STATUS and the
model's record of the access at most. -/
theorem step_of_busy {s t : State} {x : Input} {rest : List Input} (hb : s.status.busy = true)
    (hi : s.inputs = x :: rest) (hengine : x ≠ .engine) (hreset : ∀ b, x ≠ .reset b) (hstep : step s = .next t) :
    ∃ st rsp v n, t = { s with inputs := rest, status := st, rsp := rsp, lastRead := v, draws := n } := by
  rcases step_next_cases hstep with ⟨rsp, v, n, ht⟩ | ⟨loc, data, -, -, ht⟩ | ⟨asserted, hx, -⟩ | ⟨_, -, -, hx, -⟩
  · rw [State.takeInput_of_cons hi] at ht
    exact ⟨_, rsp, v, n, ht⟩
  · obtain ⟨st, hw⟩ := hostWrite_of_busy_status (s := s.takeInput) hb loc data
    rw [hw, State.takeInput_of_cons hi] at ht
    exact ⟨st, _, _, _, ht⟩
  · rw [hi] at hx
    exact absurd (Option.some.inj hx) (hreset asserted)
  · rw [hi] at hx
    rcases hx with hx | hx
    · cases hx
    · exact absurd (Option.some.inj hx) hengine

/-- Settles O48: STATUS is no input of the command, and the invariant stays, so the command still runs. -/
theorem inputsAreStableDuringACommand : Obligations.InputsAreStableDuringACommand := by
  intro i s t x rest h hi hengine hreset hstep
  have hsound := stepKeepsTheInvariant s t h.sound hstep
  obtain ⟨st, rsp, v, n, rfl⟩ := step_of_busy (h.sound.phaseIsBusy.mp h.busy) hi hengine hreset hstep
  exact ⟨⟨rfl, rfl, rfl, rfl, rfl, rfl, rfl, rfl, rfl, rfl⟩, rfl, rfl, hsound, h.busy, h.latched⟩

theorem acceptCommand_results (w : Word) (s : State) :
    (s.acceptCommand w).outBuf = s.outBuf ∧ (s.acceptCommand w).res = s.res := by
  rcases acceptCommand_cases w s with ⟨_, -, ha⟩ | ⟨_, -, ha⟩ <;> rw [ha] <;> exact ⟨rfl, rfl⟩

/-- No host write changes OUT or RES: both are read-only, and acceptance leaves them (10_state.md R22). -/
theorem hostWrite_results (loc : Location) (data : Word) (s : State) :
    (s.hostWrite loc data).outBuf = s.outBuf ∧ (s.hostWrite loc data).res = s.res := by
  rcases hostWrite_cases loc data s with ⟨-, -, hw⟩ | ⟨-, hw⟩ | ⟨-, -, hw⟩ | ⟨-, _, -, hw⟩ |
    ⟨-, _, _, _, _, _, _, -, hw⟩ <;> rw [hw]
  case inr.inr.inl => exact acceptCommand_results data s
  all_goals exact ⟨rfl, rfl⟩

/-- Settles O49: of what a step can do, only a completion and the assertion of reset write OUT or RES. -/
theorem resultsStayUntilTheNextCommand : Obligations.ResultsStayUntilTheNextCommand := by
  intro s t _ hidle hreset hstep
  rcases step_next_cases hstep with ⟨_, _, _, rfl⟩ | ⟨loc, data, -, -, rfl⟩ | ⟨asserted, hx, rfl⟩ | ⟨_, hbusy, -⟩
  · exact ⟨rfl, rfl⟩
  · exact hostWrite_results loc data s.takeInput
  · cases asserted with
    | false => exact ⟨rfl, rfl⟩
    | true =>
      obtain ⟨rest, hi⟩ := List.head?_eq_some_iff.mp hx
      exact absurd hi (hreset rest)
  · rw [hidle] at hbusy
    cases hbusy

end Sys2Proof.Machine
end

section
/-! PROOFS. The command word (30_encoding.md R81–R84: O1, O2, O3) and the host's pseudo-instructions `wait` and `copy`
(R89: O46, O47). -/

namespace Sys2Proof.Machine

/-! ### The command word -/

theorem ofOpcode_eq_some_iff {op : BitVec 4} {i : Instr} : Instr.ofOpcode op = some i ↔ op = i.opcode :=
  ⟨opcode_of_ofOpcode, fun h => h ▸ ofOpcode_opcode i⟩

/-- The four OP values without a command (30_encoding.md R83). -/
theorem ofOpcode_eq_none_iff : ∀ op : BitVec 4, Instr.ofOpcode op = none ↔
    op.toNat = 0x6 ∨ op.toNat = 0x7 ∨ op.toNat = 0xE ∨ op.toNat = 0xF := by
  decide

/-- A word gives a command exactly when its reserved bits are 0 and the OP map has its OP (30_encoding.md R83). -/
theorem decode_eq_ok_iff {w : Word} {i : Instr} :
    decode w = .ok i ↔ w.extractLsb' 4 28 = 0#28 ∧ Instr.ofOpcode (w.extractLsb' 0 4) = some i := by
  unfold decode
  split_ifs with hreserved
  · simp [hreserved]
  · cases Instr.ofOpcode (w.extractLsb' 0 4) <;> simp [not_not.mp hreserved]

/-- A word is refused exactly when a reserved bit is set or the OP map lacks its OP (30_encoding.md R84). -/
theorem decode_eq_badCmd_iff {w : Word} :
    decode w = .error .badCmd ↔ w.extractLsb' 4 28 ≠ 0#28 ∨ Instr.ofOpcode (w.extractLsb' 0 4) = none := by
  unfold decode
  split_ifs with hreserved
  · simp [hreserved]
  · cases Instr.ofOpcode (w.extractLsb' 0 4) <;> simp [not_not.mp hreserved]

/-- The two fields of a command word determine it (30_encoding.md R81). -/
theorem eq_encode_iff {w : Word} {i : Instr} :
    w = encode i ↔ w.extractLsb' 4 28 = 0#28 ∧ w.extractLsb' 0 4 = i.opcode := by
  constructor
  · rintro rfl
    exact ⟨BitVec.extractLsb'_append_eq_left, BitVec.extractLsb'_append_eq_right⟩
  · rintro ⟨hreserved, hop⟩
    rw [encode, ← hreserved, ← hop]
    exact (BitVec.extractLsb'_append_extractLsb' (w := 28) (len := 4)).symm

/-- Settles O2: on both sides the reserved bits are 0 and the OP is the command's. -/
theorem decodeIsTheInverseOfEncode : Obligations.DecodeIsTheInverseOfEncode := by
  intro w i
  rw [decode_eq_ok_iff, ofOpcode_eq_some_iff, eq_encode_iff]

theorem extractLsb'_reserved_ne_zero_iff (w : Word) : w.extractLsb' 4 28 ≠ 0#28 ↔ 16 ≤ w.toNat := by
  have hw := w.isLt
  rw [Ne, ← BitVec.toNat_inj, BitVec.extractLsb'_toNat, BitVec.toNat_ofNat, Nat.shiftRight_eq_div_pow]
  omega

theorem extractLsb'_op_toNat (w : Word) : (w.extractLsb' 0 4).toNat = w.toNat % 16 :=
  BitVec.extractLsb'_toNat 0 4 w

/-- Settles O3: the reserved bits and the OP are the quotient and the remainder of the word by 16. -/
theorem decodeRefusesExactlyTheReservedWords : Obligations.DecodeRefusesExactlyTheReservedWords := by
  intro w
  rw [decode_eq_badCmd_iff, extractLsb'_reserved_ne_zero_iff, ofOpcode_eq_none_iff, extractLsb'_op_toNat, or_comm]
  simp only [or_assoc]

theorem decode_encode (i : Instr) : decode (encode i) = .ok i := (decodeIsTheInverseOfEncode _ i).mpr rfl

/-- Settles O1: twelve of the words are the commands' own, the other four have a reserved OP. -/
theorem commandWordsOfTheOpMapDecode : Obligations.CommandWordsOfTheOpMapDecode :=
  have hbad {w : Word} (hop : w.toNat % 16 = 0x6 ∨ w.toNat % 16 = 0x7 ∨ w.toNat % 16 = 0xE ∨ w.toNat % 16 = 0xF) :
      decode w = .error .badCmd := (decodeRefusesExactlyTheReservedWords w).mpr (by tauto)
  ⟨decode_encode .ecbEnc, decode_encode .ecbDec, decode_encode .cbcEnc, decode_encode .cbcDec, decode_encode .ctrEnc,
    decode_encode .ctrDec, hbad (by decide), hbad (by decide), decode_encode .expand, decode_encode .sbox,
    decode_encode .fEval, decode_encode .ksEval, decode_encode .blkEnc, decode_encode .blkDec, hbad (by decide),
    hbad (by decide)⟩

/-! ### Runs and completions -/

theorem run_succ_of_step {s t : State} (h : step s = .next t) (n : Nat) : core.run (n + 1) s = core.run n t := by
  simp only [Host.Core.run, show core.step s = .next t from h]

theorem run_one_of_step {s t : State} (h : step s = .next t) : core.run 1 s = .next t := run_succ_of_step h 0

/-- A run goes on from the state in which a shorter one ends. -/
theorem run_add_of_run {n : Nat} (m : Nat) {s t : State} (h : core.run n s = .next t) :
    core.run (n + m) s = core.run m t := by
  induction n generalizing s with
  | zero => cases h; rw [Nat.zero_add]
  | succ n ih =>
    cases hstep : step s with
    | next u =>
      rw [run_succ_of_step hstep] at h
      rw [Nat.succ_add, run_succ_of_step hstep, ih h]
    | fault r | refused r =>
      simp only [Host.Core.run, show core.step s = _ from hstep] at h
      cases h

/-- The execution of a command ends in its completion, within the frame that every command keeps (43_mode_engine.md
R162). -/
theorem exec_completes (i : Instr) (s : State) : ∃ t, exec i s = .next t ∧ Completed t ∧ CommonFrame s t := by
  rcases exec_cases i s with ⟨-, out, hx⟩ | ⟨-, v, hx⟩
  · obtain ⟨hcompleted, hframe⟩ := completeData_frame s (blocksToBytes out)
    exact ⟨_, hx, hcompleted, hframe.common⟩
  · obtain ⟨hcompleted, hframe⟩ := completeDiag_frame s v
    exact ⟨_, hx, hcompleted, hframe.common⟩

/-- A step that gives the engine its turn executes the command that OPR holds (43_mode_engine.md R161). -/
theorem step_engine_of_latched {i : Instr} {s : State} {rest : List Input} (hp : s.phase = .busy)
    (ho : s.opr = i.opcode) (hi : s.inputs = .engine :: rest) : step s = exec i { s with inputs := rest } := by
  rw [step_cons hi]
  simp only [applyInput, engineTurn, hp, ho, ofOpcode_opcode]

/-! ### `wait` -/

theorem Status.word_busy (st : Status) : st.word.getLsbD 0 = st.busy := by rw [Status.getLsbD_word]; simp

theorem Status.word_done (st : Status) : st.word.getLsbD 1 = st.done := by rw [Status.getLsbD_word]; simp

theorem Status.word_err (st : Status) : st.word.getLsbD 2 = st.err := by rw [Status.getLsbD_word]; simp

/-- A step on a read of STATUS returns its word and changes nothing else (10_state.md R25). -/
theorem step_rd_status {s : State} {rest : List Input} (hr : s.resetLine = false)
    (hi : s.inputs = rd .status :: rest) :
    step s = .next (State.returnData s.status.word { s with inputs := rest }) :=
  step_rd (loc := .status) hr trivial hi

/-- Any number of polls of STATUS changes the model's record of the accesses alone (20_memory.md R68). -/
theorem run_polls {n : Nat} {s : State} {rest : List Input} (hr : s.resetLine = false)
    (hi : s.inputs = List.replicate n (rd .status) ++ rest) :
    ∃ rsp v, core.run n s = .next { s with inputs := rest, rsp := rsp, lastRead := v } := by
  induction n generalizing s with
  | zero => subst hi; exact ⟨s.rsp, s.lastRead, rfl⟩
  | succ n ih =>
    rw [run_succ_of_step (step_rd_status hr hi)]
    exact ih hr rfl

/-- The last of any number of polls of STATUS returns the word that STATUS holds. -/
theorem run_polls_rsp {n : Nat} {s : State} {rest : List Input} (hn : 1 ≤ n) (hr : s.resetLine = false)
    (hi : s.inputs = List.replicate n (rd .status) ++ rest) :
    ∃ t, core.run n s = .next t ∧ t.rsp = some (.data s.status.word) := by
  obtain ⟨m, rfl⟩ := Nat.exists_eq_add_of_le' hn
  obtain ⟨rsp, v, hrun⟩ := run_polls (n := m) (rest := rd .status :: rest) hr
    (by rw [hi, List.replicate_succ', List.append_assoc, List.singleton_append])
  exact ⟨_, (run_add_of_run 1 hrun).trans (run_one_of_step (step_rd_status hr rfl)), rfl⟩

/-- A running command shows BUSY and not DONE in STATUS (10_state.md R26, R27). -/
theorem executing_busyNotDone {i : Instr} {s : State} (h : s.Executing i) :
    s.status.busy = true ∧ s.status.done = false :=
  have hbusy := h.sound.phaseIsBusy.mp h.busy
  ⟨hbusy, h.sound.busyNotDone hbusy⟩

/-- Settles O46: the polls leave the command running, the engine's turn completes it, and the last poll reads STATUS
after it. -/
theorem waitEndsOnTheReadThatShowsDone : Obligations.WaitEndsOnTheReadThatShowsDone := by
  intro i s polls rest h hi
  obtain ⟨hbusy, hdone⟩ := executing_busyNotDone h
  have hr := resetLine_of_busy h.sound hbusy
  rw [wait, List.append_assoc] at hi
  constructor
  · intro n hn hle
    have hsplit : s.inputs = List.replicate n (rd .status) ++
        (List.replicate (polls - n) (rd .status) ++ ([.engine, rd .status] ++ rest)) := by
      rw [← List.append_assoc, List.replicate_append_replicate, Nat.add_sub_cancel' hle, hi]
    obtain ⟨t, hrun, hrsp⟩ := run_polls_rsp hn hr hsplit
    exact ⟨t, s.status.word, hrun, hrsp, by rw [Status.word_busy, hbusy], by rw [Status.word_done, hdone]⟩
  · obtain ⟨rsp, v, hrun⟩ := run_polls hr hi
    obtain ⟨u, hexec, hcompleted, hframe⟩ :=
      exec_completes i { s with inputs := rd .status :: rest, rsp := rsp, lastRead := v }
    have hturn := (step_engine_of_latched
      (s := { s with inputs := .engine :: rd .status :: rest, rsp := rsp, lastRead := v })
      h.busy h.latched rfl).trans hexec
    have hpoll := step_rd_status (hframe.resetLine.trans hr) hframe.inputs
    have herr : u.status.err = false := hframe.err.trans (executing_noError h).1
    exact ⟨_, u.status.word, (run_add_of_run 2 hrun).trans ((run_succ_of_step hturn 1).trans (run_one_of_step hpoll)),
      rfl, by rw [Status.word_busy, hcompleted.notBusy], by rw [Status.word_done, hcompleted.done],
      by rw [Status.word_err, herr], rfl⟩

/-! ### `copy` -/

/-- A step on a read of an OUT entry that holds a byte returns it, and changes nothing else (20_memory.md R64, R68). -/
theorem step_rd_outEntry_of_some {s : State} {k : Nat} {b : Byte} {rest : List Input} (hr : s.resetLine = false)
    (hk : k < s.params.bufBytes) (hb : s.status.busy = false) (hread : s.outBuf.read k = some b)
    (hi : s.inputs = rd (.outEntry k) :: rest) :
    step s = .next (State.returnData (asWord b) { s with inputs := rest }) :=
  (step_rd_outEntry hr hk hb hi).trans (readEntry_of_some hread _ _)

/-- The write of the value last read is the write of that value (30_encoding.md R89). -/
theorem step_writeRead {s : State} {loc : Location} {rest : List Input} (hi : s.inputs = .writeRead loc.addr :: rest) :
    step s = step { s with inputs := wr loc s.lastRead :: rest } := by
  rw [step_cons hi]
  rfl

/-- Accesses leave a ready core ready when they change the input list and the model's record alone. -/
theorem State.Ready.setRecord {s : State} (h : s.Ready) (inputs : List Input) (rsp : Option Response)
    (lastRead : Word) (draws : Nat) :
    { s with inputs := inputs, rsp := rsp, lastRead := lastRead, draws := draws }.Ready :=
  ⟨inv_setRecord h.sound inputs rsp lastRead draws, h.idle, h.released⟩

/-- A byte read from a buffer entry is the byte that a write of the value read stores (20_memory.md R64). -/
theorem setWidth_asWord_byte (b : Byte) : (asWord b).setWidth 8 = b := by
  rw [asWord, BitVec.setWidth_setWidth_of_le _ (by decide), BitVec.setWidth_eq]

/-- Settles O47: the read returns the byte of `OUT[k]`, and the write of the value read stores it in `IN[k]`. -/
theorem copyMovesAnOutByteToIn : Obligations.CopyMovesAnOutByteToIn := by
  intro s k b rest h hk hread hi
  have hwrite := step_wr_inEntry (data := asWord b)
    (h.setRecord (wr (.inEntry k) (asWord b) :: rest) (some (.data (asWord b))) (asWord b) s.draws) hk rfl
  rw [setWidth_asWord_byte] at hwrite
  refine ⟨_, _, step_rd_outEntry_of_some h.released hk (not_busy_of_ready h) hread hi,
    (step_writeRead (loc := .inEntry k) rfl).trans hwrite, ?_, fun j hj => ?_, rfl, rfl⟩
  · exact (Memory.read_write _ k k b).trans (if_pos rfl)
  · exact (Memory.read_write _ k j b).trans (if_neg hj)

end Sys2Proof.Machine
end

section
/-! PROOFS. The round function (40_round_function.md R100–R110: O4, O5, O6, O7): what the wiring E and the two
look-ups give bit by bit, and the three diagnostic commands that write them to RES. -/

namespace Sys2Proof.Machine

/-! ### The wiring E -/

/-- Output bit p of E copies the input bit of the wiring table (40_round_function.md R102). -/
theorem getLsbD_expandHalf (r : Half) {p : Nat} (hp : p < 8) :
    (expandHalf r).getLsbD p = r.getLsbD ([0, 1, 3, 2, 3, 2, 4, 5].getD p 0) := by
  rw [expandHalf, BitVec.getLsbD_ofFnLE, dif_pos hp]
  interval_cases p <;> rfl

/-- E in one expression, bit 7 first (40_round_function.md R102). -/
theorem expandHalf_eq_append (r : Half) :
    expandHalf r = BitVec.ofBool (r.getLsbD 5) ++ BitVec.ofBool (r.getLsbD 4) ++ BitVec.ofBool (r.getLsbD 2) ++
      BitVec.ofBool (r.getLsbD 3) ++ BitVec.ofBool (r.getLsbD 2) ++ BitVec.ofBool (r.getLsbD 3) ++
      BitVec.ofBool (r.getLsbD 1) ++ BitVec.ofBool (r.getLsbD 0) := by
  -- The width is the sum of the eight one-bit widths, as `getLsbD_append` has it.
  refine BitVec.eq_of_getLsbD_eq (w := 1 + 1 + 1 + 1 + 1 + 1 + 1 + 1) fun p hp => (getLsbD_expandHalf r hp).trans ?_
  interval_cases p <;> simp only [BitVec.getLsbD_append, BitVec.getLsbD_ofBool] <;> rfl

/-- The operand r is the low six bits of DA (30_encoding.md R86). -/
theorem getLsbD_operandHalf (s : State) {j : Nat} (hj : j < 6) : s.operandHalf.getLsbD j = s.da.getLsbD j := by
  rw [State.operandHalf, BitVec.getLsbD_extractLsb']
  simp [hj]

/-! ### The fields of RES -/

/-- A result of n bits zero-extended to RES has no bit at n or above. -/
theorem extractLsb'_setWidth_eq_zero {n lo len : Nat} (v : BitVec n) (h : n ≤ lo) :
    (v.setWidth 12).extractLsb' lo len = 0#len := by
  refine BitVec.eq_of_getLsbD_eq fun j hj => ?_
  simp [BitVec.getLsbD_of_ge v (lo + j) (by omega)]

/-- The two look-ups of a key-mixed value as they stand in RES: S1's output in bits 5:3, S2's in bits 2:0
(40_round_function.md R101, R105). -/
theorem substitute_fields (p : Params) (x : BitVec 8) :
    ((substitute p x).setWidth 12).extractLsb' 3 3 = lookup p.sbox1 (x.extractLsb' 4 4) ∧
    ((substitute p x).setWidth 12).extractLsb' 0 3 = lookup p.sbox2 (x.extractLsb' 0 4) ∧
    ((substitute p x).setWidth 12).extractLsb' 6 6 = 0#6 := by
  refine ⟨?_, ?_, extractLsb'_setWidth_eq_zero _ (Nat.le_refl 6)⟩
  · rw [BitVec.extractLsb'_setWidth_of_le (by decide)]
    exact BitVec.extractLsb'_append_eq_left
  · rw [BitVec.extractLsb'_setWidth_of_le (by decide)]
    exact BitVec.extractLsb'_append_eq_right

/-! ### The three commands -/

theorem exec_expand (s : State) :
    exec .expand s = .next (s.completeDiag ((expandHalf s.operandHalf).setWidth 12)) := rfl

theorem exec_sbox (s : State) :
    exec .sbox s = .next (s.completeDiag ((substitute s.params s.operandMixed).setWidth 12)) := rfl

/-- F_EVAL looks up the expanded half-block mixed with the subkey (40_round_function.md R103, R110). -/
theorem exec_fEval (s : State) : exec .fEval s =
    .next (s.completeDiag ((substitute s.params (expandHalf s.operandHalf ^^^ s.db)).setWidth 12)) := rfl

/-- What the rule of every diagnostic command says beside its result (43_mode_engine.md R162). -/
theorem completeDiag_reported {i : Instr} {s : State} (h : s.Executing i) (v : BitVec 12) :
    Completed (s.completeDiag v) ∧ DiagFrame s (s.completeDiag v) ∧
      IssuedAndReported i (encode i) (s.completeDiag v) := by
  obtain ⟨hcompleted, hframe⟩ := completeDiag_frame s v
  exact ⟨hcompleted, hframe, issuedAndReported_of_frame h hframe.common⟩

/-- Settles O4: the bits of RES are those of E, and E's source index is always below the operand's width. -/
theorem expandWritesTheWiredBits : Obligations.ExpandWritesTheWiredBits := by
  intro s h
  refine ⟨_, exec_expand s, fun p hp => ?_, extractLsb'_setWidth_eq_zero _ (Nat.le_refl 8), completeDiag_reported h _⟩
  have hsource : [0, 1, 3, 2, 3, 2, 4, 5].getD p 0 < 6 := by revert p; decide
  rw [State.completeDiag_res, BitVec.getLsbD_setWidth, getLsbD_expandHalf _ hp, getLsbD_operandHalf s hsource,
    decide_eq_true (by omega), Bool.true_and]

/-- Settles O5: RES holds both look-ups of DA[7:0], whose nibbles are the nibbles of DA. -/
theorem sboxReadsBothTables : Obligations.SboxReadsBothTables := by
  intro s h
  obtain ⟨hfirst, hsecond, hzero⟩ := substitute_fields s.params s.operandMixed
  rw [State.operandMixed, BitVec.extractLsb'_extractLsb'_of_le (by decide)] at hfirst hsecond
  exact ⟨_, exec_sbox s, hfirst, hsecond, hzero, completeDiag_reported h _⟩

/-- Settles O6: RES holds both look-ups of E(DA[5:0]) XOR DB, with E in R102's expression. -/
theorem fEvalMixesExpandsAndSubstitutes : Obligations.FEvalMixesExpandsAndSubstitutes := by
  intro s h
  obtain ⟨hfirst, hsecond, hzero⟩ := substitute_fields s.params (expandHalf s.operandHalf ^^^ s.db)
  refine ⟨_, _, exec_fEval s, ?_, hfirst, hsecond, hzero, completeDiag_reported h _⟩
  simp only [expandHalf_eq_append, getLsbD_operandHalf s, Nat.reduceLT]

/-- Settles O7: F_EVAL and SBOX look up one value in the same tables. -/
theorem sboxOfTheMixedValueIsFEval : Obligations.SboxOfTheMixedValueIsFEval := by
  intro s u _ _ hparams (hmixed : u.operandMixed = expandHalf s.operandHalf ^^^ s.db)
  refine ⟨_, _, exec_fEval s, exec_sbox u, ?_⟩
  rw [State.completeDiag_res, State.completeDiag_res, hparams, hmixed]

end Sys2Proof.Machine
end

section
/-! PROOFS. The key schedule (41_key_schedule.md R120–R131: O8, O9, O10, O11): `subkeyRaw` in arithmetic on naturals,
what that says of its size and of its bits, and KS_EVAL, which writes the subkey to RES. -/

namespace Sys2Proof.Machine

/-! ### The formula in arithmetic -/

/-- The low 10 − i' bits of the key, shifted by i' − 2: the first operand of step 7 (41_key_schedule.md R123, R124).
`subkeyRaw_eq` ties it to the model. -/
def rotatedLow (key ip : Nat) : Nat :=
  if ip < 2 then key % 2 ^ (10 - ip) / 2 ^ (2 - ip) else key % 2 ^ (10 - ip) * 2 ^ (ip - 2)

/-- The signed shift amount i' − 2 as a division below i' = 2 and a product from there on (41_key_schedule.md R124). -/
theorem shiftBy_sub_two (v ip : Nat) :
    shiftBy v ((ip : Int) - 2) = if ip < 2 then v / 2 ^ (2 - ip) else v * 2 ^ (ip - 2) := by
  unfold shiftBy
  split_ifs with hneg hip hip
  · rw [show (-((ip : Int) - 2)).toNat = 2 - ip by omega, Nat.shiftRight_eq_div_pow]
  · omega
  · omega
  · rw [show ((ip : Int) - 2).toNat = ip - 2 by omega, Nat.shiftLeft_eq]

/-- Steps 1 to 7 of the formula, for a key of any width and any round index (41_key_schedule.md R121–R126). -/
theorem subkeyRaw_eq (key i : Nat) :
    subkeyRaw key i = rotatedLow key (i % 10) ||| key / 2 ^ (11 - i % 10) := by
  have hsplit : 10 - i % 10 + 1 = 11 - i % 10 := by omega
  simp only [subkeyRaw, rotatedLow, shiftBy_sub_two, Nat.one_shiftLeft, Nat.and_two_pow_sub_one_eq_mod,
    Nat.shiftRight_eq_div_pow, hsplit]

/-- The round index counts modulo 10 alone (41_key_schedule.md R121). -/
theorem subkeyRaw_add_ten_mul (key i n : Nat) : subkeyRaw key (i + 10 * n) = subkeyRaw key i := by
  rw [subkeyRaw_eq, subkeyRaw_eq, Nat.add_mul_mod_self_left]

/-! ### The size of the raw value -/

/-- For a key of any width the shifted low bits fit the subkey: 10 − i' bits, shifted by i' − 2, are 8. -/
theorem rotatedLow_lt {ip : Nat} (key : Nat) (hip : ip < 10) : rotatedLow key ip < 256 := by
  have hlow : key % 2 ^ (10 - ip) < 2 ^ (10 - ip) := Nat.mod_lt _ (Nat.two_pow_pos _)
  unfold rotatedLow
  split_ifs with hright
  · rw [Nat.div_lt_iff_lt_mul (Nat.two_pow_pos _)]
    calc key % 2 ^ (10 - ip) < 2 ^ (10 - ip) := hlow
      _ = 2 ^ 8 * 2 ^ (2 - ip) := by rw [← Nat.pow_add]; congr 1; omega
  · calc key % 2 ^ (10 - ip) * 2 ^ (ip - 2) < 2 ^ (10 - ip) * 2 ^ (ip - 2) :=
        Nat.mul_lt_mul_of_pos_right hlow (Nat.two_pow_pos _)
      _ = 2 ^ 8 := by rw [← Nat.pow_add]; congr 1; omega

/-- The part of the key above its dropped bit: at least two of the nine bits of a narrow key are below it. -/
theorem high_lt {key ip : Nat} (hkey : key < 512) (hip : ip < 10) : key / 2 ^ (11 - ip) < 256 := by
  have hpow : 2 ^ 2 ≤ 2 ^ (11 - ip) := Nat.pow_le_pow_right (by decide) (by omega)
  exact Nat.div_lt_of_lt_mul (by omega)

/-! ### The bits of a subkey -/

theorem testBit_rotatedLow {ip b : Nat} (key : Nat) (hip : ip < 10) (hb : b < 8) :
    (rotatedLow key ip).testBit b =
      if ip < 2 then key.testBit (b + (2 - ip)) else decide (ip - 2 ≤ b) && key.testBit (b - (ip - 2)) := by
  unfold rotatedLow
  split_ifs with hright
  · rw [Nat.testBit_div_two_pow, Nat.testBit_mod_two_pow, decide_eq_true (by omega), Bool.true_and]
  · rw [Nat.testBit_mul_two_pow, Nat.testBit_mod_two_pow, decide_eq_true (p := b - (ip - 2) < 10 - ip) (by omega),
      Bool.true_and]

/-- Every bit of a subkey is the OR of two bits of the key, for a key of any width (41_key_schedule.md R123–R126). -/
theorem getLsbD_subkey {b : Nat} (key : BitVec 32) (i : Nat) (hb : b < 8) :
    (subkey key i).getLsbD b =
      ((if i % 10 < 2 then key.getLsbD (b + (2 - i % 10))
        else decide (i % 10 - 2 ≤ b) && key.getLsbD (b - (i % 10 - 2))) || key.getLsbD (11 - i % 10 + b)) := by
  rw [subkey, BitVec.getLsbD_ofNat, decide_eq_true hb, Bool.true_and, subkeyRaw_eq, Nat.testBit_or,
    testBit_rotatedLow _ (Nat.mod_lt i (by decide)) hb, Nat.testBit_div_two_pow, Nat.add_comm b (11 - i % 10)]
  simp only [BitVec.testBit_toNat]

/-- A key below 512 has no bit at 9 or above. -/
theorem getLsbD_eq_false_of_narrow {key : BitVec 32} {j : Nat} (hkey : key.toNat < 512) (hj : 9 ≤ j) :
    key.getLsbD j = false :=
  Nat.testBit_lt_two_pow (Nat.lt_of_lt_of_le hkey (Nat.pow_le_pow_right (n := 2) (by decide) hj))

/-! ### The statements -/

theorem exec_ksEval (s : State) :
    exec .ksEval s = .next (s.completeDiag ((subkey s.key s.da.toNat).setWidth 12)) := rfl

/-- Settles O8: RES is the subkey zero-extended, and the subkey is the arithmetic form of the formula, mod 256. -/
theorem ksEvalWritesTheSubkey : Obligations.KsEvalWritesTheSubkey := by
  intro s h
  refine ⟨_, _, _, exec_ksEval s, rfl, rfl, ?_, completeDiag_reported h _⟩
  rw [State.completeDiag_res, BitVec.toNat_setWidth_of_le (by decide), subkey, BitVec.toNat_ofNat, subkeyRaw_eq,
    rotatedLow]

/-- Settles O9: the raw value has the period already. -/
theorem subkeysRepeatWithPeriodTen : Obligations.SubkeysRepeatWithPeriodTen := by
  intro key i n
  rw [subkey, subkey, subkeyRaw_add_ten_mul]

/-- Settles O10: of the two key bits that make a bit of the subkey at most one is a bit of the nine-bit key. Below
i' = 2 it is the low one; from there on the high one for the i' − 2 lowest bits of the subkey, else the low one. -/
theorem narrowKeySubkeySelectsKeyBits : Obligations.NarrowKeySubkeySelectsKeyBits := by
  intro key i hkey
  refine ⟨fun hi b hb => ?_, fun hi b hb => ?_, fun hi b hb => ?_⟩
  · have hhigh : key.getLsbD (11 + b) = false := getLsbD_eq_false_of_narrow hkey (by omega)
    have hlow : key.getLsbD (b + 2) = (decide (b < 7) && key.getLsbD (b + 2)) := by
      obtain hlt | rfl : b < 7 ∨ b = 7 := by omega
      · rw [decide_eq_true hlt, Bool.true_and]
      · exact getLsbD_eq_false_of_narrow hkey (Nat.le_refl 9)
    simpa [getLsbD_subkey key i hb, hi, hhigh] using hlow
  · have hhigh : key.getLsbD (10 + b) = false := getLsbD_eq_false_of_narrow hkey (by omega)
    simp [getLsbD_subkey key i hb, hi, hhigh]
  · rw [getLsbD_subkey key i hb, if_neg (Nat.not_lt.mpr hi)]
    split_ifs with hlt
    · rw [decide_eq_false (by omega), Bool.false_and, Bool.false_or]
    · rw [getLsbD_eq_false_of_narrow hkey (show 9 ≤ 11 - i % 10 + b by omega), decide_eq_true (by omega),
        Bool.true_and, Bool.or_false]

/-- Settles O11: both operands of step 7 fit eight bits, and so does their OR. -/
theorem narrowKeyNeedsNoTruncation : Obligations.NarrowKeyNeedsNoTruncation := by
  intro key i hkey
  have hip : i % 10 < 10 := Nat.mod_lt i (by decide)
  rw [subkeyRaw_eq]
  exact Nat.or_lt_two_pow (n := 8) (rotatedLow_lt key hip) (high_lt hkey hip)

end Sys2Proof.Machine
end

section
/-! PROOFS. The block packer (42_block_packer.md R140–R143: O13). Both maps keep the 24-bit value of a group, and that
value determines the two blocks: this is why the packer also undoes the unpacker. -/

namespace Sys2Proof.Machine

/-! ### One group -/

/-- The unpacker keeps the 24-bit value of a pair of blocks (20_memory.md R65). -/
theorem unpackFirst_append_unpackSecond_append_unpackThird (k0 k1 : Block) :
    unpackFirst k0 ++ unpackSecond k0 k1 ++ unpackThird k1 = k0 ++ k1 := by
  apply BitVec.eq_of_getLsbD_eq
  intro i hi
  simp only [BitVec.getLsbD_append]
  interval_cases i <;> simp [unpackFirst, unpackSecond, unpackThird]

/-- The 24-bit value of a group determines its two blocks. -/
theorem blocks_eq_of_append_eq {k0 k1 l0 l1 : Block} (h : k0 ++ k1 = l0 ++ l1) : k0 = l0 ∧ k1 = l1 := by
  have hlow : k1 = l1 := by
    simpa only [BitVec.setWidth_append_eq_right] using congrArg (BitVec.setWidth 12) h
  subst hlow
  exact ⟨(BitVec.append_left_inj k1).mp h, rfl⟩

/-- Packing what a pair of blocks unpacks to gives the pair: the 24-bit value passes unchanged through both maps. -/
theorem pack_unpack (k0 k1 : Block) :
    packFirst (unpackFirst k0) (unpackSecond k0 k1) = k0 ∧ packSecond (unpackSecond k0 k1) (unpackThird k1) = k1 :=
  blocks_eq_of_append_eq <|
    (packFirst_append_packSecond (unpackFirst k0) (unpackSecond k0 k1) (unpackThird k1)).trans
      (unpackFirst_append_unpackSecond_append_unpackThird k0 k1)

/-! ### Whole groups -/

/-- 42_block_packer.md R143 on the pairs of blocks. -/
theorem bytesToBlocks_blocksToBytes : ∀ blocks : List Block, blocks.length % 2 = 0 →
    bytesToBlocks (blocksToBytes blocks) = blocks
  | [], _ => rfl
  | [_], h => by simp at h
  | k0 :: k1 :: rest, h => by
    have hrest : rest.length % 2 = 0 := by simp only [List.length_cons] at h; omega
    obtain ⟨hfirst, hsecond⟩ := pack_unpack k0 k1
    simp only [blocksToBytes, bytesToBlocks, hfirst, hsecond, bytesToBlocks_blocksToBytes rest hrest]

/-- Settles O13: the two inverses on whole groups, and the 24-bit value each map keeps. -/
theorem packerMapsAreInverse : Obligations.PackerMapsAreInverse :=
  ⟨blocksToBytes_bytesToBlocks, bytesToBlocks_blocksToBytes, packFirst_append_packSecond,
    unpackFirst_append_unpackSecond_append_unpackThird⟩

end Sys2Proof.Machine
end

section
/-! PROOFS. The Feistel rounds and the block transforms (43_mode_engine.md R165–R171: O14, O15), and the two
diagnostic commands that write them to RES (R181, R182: O16, O17, O18). -/

namespace Sys2Proof.Machine

/-! ### Halves -/

@[simp] theorem leftHalf_append (l r : Half) : leftHalf (l ++ r) = l := BitVec.extractLsb'_append_eq_left

@[simp] theorem rightHalf_append (l r : Half) : rightHalf (l ++ r) = r := BitVec.extractLsb'_append_eq_right

@[simp] theorem leftHalf_append_rightHalf (b : Block) : leftHalf b ++ rightHalf b = b :=
  BitVec.extractLsb'_append_extractLsb' (w := 6) (len := 6)

/-! ### Rounds -/

@[simp] theorem leftHalf_encRound (p : Params) (b : Block) (k : Subkey) : leftHalf (encRound p b k) = rightHalf b :=
  leftHalf_append _ _

@[simp] theorem rightHalf_encRound (p : Params) (b : Block) (k : Subkey) :
    rightHalf (encRound p b k) = roundF p (rightHalf b) k ^^^ leftHalf b := rightHalf_append _ _

@[simp] theorem leftHalf_decRound (p : Params) (b : Block) (k : Subkey) :
    leftHalf (decRound p b k) = roundF p (leftHalf b) k ^^^ rightHalf b := leftHalf_append _ _

@[simp] theorem rightHalf_decRound (p : Params) (b : Block) (k : Subkey) : rightHalf (decRound p b k) = leftHalf b :=
  rightHalf_append _ _

/-- The decryption round evaluates f on the half that the encryption round passed on, so the two XORs cancel. -/
theorem decRound_encRound (p : Params) (b : Block) (k : Subkey) : decRound p (encRound p b k) k = b := by
  rw [decRound, leftHalf_encRound, rightHalf_encRound, xor_cancel_left, leftHalf_append_rightHalf]

theorem encRound_decRound (p : Params) (b : Block) (k : Subkey) : encRound p (decRound p b k) k = b := by
  rw [encRound, leftHalf_decRound, rightHalf_decRound, xor_cancel_left, leftHalf_append_rightHalf]

/-- Settles O14: in both directions the second round cancels the XOR of the first. -/
theorem roundsUndoEachOther : Obligations.RoundsUndoEachOther :=
  fun p b k => ⟨decRound_encRound p b k, encRound_decRound p b k⟩

/-! ### Block transforms -/

theorem decBlock_encBlock (p : Params) (key : BitVec 32) (n : Nat) (b : Block) :
    decBlock p key n (encBlock p key n b) = b := by
  induction n with
  | zero => rfl
  | succ n ih => rw [decBlock_succ, encBlock_succ, decRound_encRound, ih]

theorem encBlock_decBlock (p : Params) (key : BitVec 32) (n : Nat) (b : Block) :
    encBlock p key n (decBlock p key n b) = b := by
  induction n generalizing b with
  | zero => rfl
  | succ n ih => rw [encBlock_succ, decBlock_succ, ih, encRound_decRound]

/-- Settles O15, by induction on the number of rounds: the last encryption round and the first decryption round have
the same subkey. -/
theorem blockTransformsUndoEachOther : Obligations.BlockTransformsUndoEachOther :=
  fun p key n b => ⟨decBlock_encBlock p key n b, encBlock_decBlock p key n b⟩

/-- Encryption folds the rounds in ascending order (43_mode_engine.md R168). -/
theorem encBlock_eq_foldl (p : Params) (key : BitVec 32) (n : Nat) (b : Block) :
    encBlock p key n b = (List.range n).foldl (fun b j => encRound p b (subkey key (j + 1))) b := by
  induction n with
  | zero => rfl
  | succ n ih => rw [encBlock_succ, ih, List.range_succ, List.foldl_append, List.foldl_cons, List.foldl_nil]

/-- Decryption folds the rounds in descending order (43_mode_engine.md R169). -/
theorem decBlock_eq_foldr (p : Params) (key : BitVec 32) (n : Nat) (b : Block) :
    decBlock p key n b = (List.range n).foldr (fun j b => decRound p b (subkey key (j + 1))) b := by
  induction n generalizing b with
  | zero => rfl
  | succ n ih => rw [decBlock_succ, ih, List.range_succ, List.foldr_append, List.foldr_cons, List.foldr_nil]

/-! ### BLK_ENC and BLK_DEC -/

theorem exec_blkEnc (s : State) : exec .blkEnc s = .next (s.completeDiag (s.encrypt s.operandBlock)) := rfl

theorem exec_blkDec (s : State) : exec .blkDec s = .next (s.completeDiag (s.decrypt s.operandBlock)) := rfl

/-- Settles O16: RES is the encryption of DA[11:0], a fold of the rounds. -/
theorem blkEncAppliesTheRoundsAscending : Obligations.BlkEncAppliesTheRoundsAscending :=
  fun s h => ⟨_, exec_blkEnc s, encBlock_eq_foldl s.params s.key s.rounds.toNat s.operandBlock,
    completeDiag_reported h _⟩

/-- Settles O17: RES is the decryption of DA[11:0], a fold of the rounds. -/
theorem blkDecAppliesTheRoundsDescending : Obligations.BlkDecAppliesTheRoundsDescending :=
  fun s h => ⟨_, exec_blkDec s, decBlock_eq_foldr s.params s.key s.rounds.toNat s.operandBlock,
    completeDiag_reported h _⟩

/-- Settles O18: with the same tables, KEY and ROUNDS the decryption undoes the encryption. -/
theorem blkDecReturnsTheBlockOfBlkEnc : Obligations.BlkDecReturnsTheBlockOfBlkEnc := by
  intro s _
  refine ⟨_, exec_blkEnc s, fun u _ hparams hkey hrounds (hda : u.operandBlock = _) => ⟨_, exec_blkDec u, ?_⟩⟩
  rw [State.completeDiag_res, hda, State.completeDiag_res, State.decrypt, hparams, hkey, hrounds]
  exact decBlock_encBlock s.params s.key s.rounds.toNat s.operandBlock

end Sys2Proof.Machine
end

section
/-! PROOFS. The data commands (43_mode_engine.md R171–R180: O19–O24, O26–O29): which blocks each one computes, what
the chainings do block by block, and how they undo each other. -/

namespace Sys2Proof.Machine

/-! ### The blocks of a data command -/

/-- The blocks that the data command `i` computes from the block buffers (43_mode_engine.md R173–R178).
`exec_of_isData` ties it to the model; a diagnostic command computes none. -/
def dataBlocks (i : Instr) (s : State) : List Block :=
  match i with
  | .ecbEnc => ecbBlocks s.encrypt s.blk
  | .ecbDec => ecbBlocks s.decrypt s.blk
  | .cbcEnc => cbcEncBlocks s.encrypt s.iv s.blk
  | .cbcDec => cbcDecBlocks s.decrypt s.iv s.cblk s.blk
  | .ctrEnc | .ctrDec => ctrBlocks s.encrypt s.iv s.blk
  | .expand | .sbox | .fEval | .ksEval | .blkEnc | .blkDec => []

theorem exec_of_isData {i : Instr} (hd : i.isData = true) (s : State) :
    exec i s = .next (s.completeData (blocksToBytes (dataBlocks i s))) := by
  cases i with
  | ecbEnc | ecbDec | cbcEnc | cbcDec | ctrEnc | ctrDec => rfl
  | expand | sbox | fEval | ksEval | blkEnc | blkDec => cases hd

/-- Every chaining gives one block for each block it takes. -/
theorem dataBlocks_length_eq_blk {i : Instr} {s : State} (hd : i.isData = true) (hcopy : i = .cbcDec → s.cblk = s.blk) :
    (dataBlocks i s).length = s.blk.length := by
  cases i with
  | ecbEnc | ecbDec => exact ecbBlocks_length _ _
  | cbcEnc => exact cbcEncBlocks_length _ _ _
  | cbcDec => rw [dataBlocks, hcopy rfl, cbcDecBlocks_length]
  | ctrEnc | ctrDec => exact ctrBlocks_length _ _ _
  | expand | sbox | fEval | ksEval | blkEnc | blkDec => cases hd

/-- CBC_DEC holds the packed input in CBLK as in BLK (10_state.md R43). -/
theorem cblk_eq_blk {s : State} (h : s.Executing .cbcDec) : s.cblk = s.blk :=
  ((executing_runs h).data rfl).copy

theorem dataBlocks_length {i : Instr} {s : State} (hd : i.isData = true) (h : s.Executing i) :
    (dataBlocks i s).length = 2 * (s.len.toNat / 3) := by
  rw [dataBlocks_length_eq_blk hd fun hi => cblk_eq_blk (hi ▸ h), ((executing_runs h).data hd).blocks]

/-- The bytes that a running data command computes fill `OUT[0..LEN−1]`: LEN is a multiple of 3. -/
theorem dataBytes_length {i : Instr} {s : State} (hd : i.isData = true) (h : s.Executing i) :
    (blocksToBytes (dataBlocks i s)).length = s.len.toNat := by
  have hlegal : s.len.toNat % 3 = 0 := ((executing_runs h).data hd).lenLegal.2
  rw [blocksToBytes_length, dataBlocks_length hd h]
  omega

theorem dataBlocks_holdsOut {i : Instr} {s : State} (hd : i.isData = true) (h : s.Executing i) :
    (s.completeData (blocksToBytes (dataBlocks i s))).HoldsOut (blocksToBytes (dataBlocks i s)) :=
  completeData_holdsOut (dataBytes_length hd h)

/-- What the rule of every data command says beside its blocks (43_mode_engine.md R162). -/
theorem dataBlocks_reported {i : Instr} {s : State} (hd : i.isData = true) (h : s.Executing i) :
    (blocksToBytes (dataBlocks i s)).length = s.len.toNat ∧
      (s.completeData (blocksToBytes (dataBlocks i s))).HoldsOut (blocksToBytes (dataBlocks i s)) ∧
      Completed (s.completeData (blocksToBytes (dataBlocks i s))) ∧
      DataFrame s (s.completeData (blocksToBytes (dataBlocks i s))) ∧
      IssuedAndReported i (encode i) (s.completeData (blocksToBytes (dataBlocks i s))) := by
  obtain ⟨hcompleted, hframe⟩ := completeData_frame s (blocksToBytes (dataBlocks i s))
  exact ⟨dataBytes_length hd h, dataBlocks_holdsOut hd h, hcompleted, hframe,
    issuedAndReported_of_frame h hframe.common⟩

/-- While a data command runs over written input, the unpacked BLK is byte by byte what IN holds. -/
theorem blocksToBytes_blk {i : Instr} {s : State} {bytes : List Byte} (hd : i.isData = true) (h : s.Executing i)
    (hin : s.HoldsIn bytes) : blocksToBytes s.blk = bytes := by
  obtain ⟨hlegal, hblocks, hloaded, -, -⟩ := (executing_runs h).data hd
  obtain ⟨hlen, hread⟩ := hin
  have hwhole : s.len.toNat % 3 = 0 := hlegal.2
  apply List.ext_getElem?
  intro k
  by_cases hk : k < s.len.toNat
  · have hbyte : bytes[k]? = some bytes[k] := List.getElem?_eq_getElem _
    rw [hbyte]
    exact hloaded k _ hk ((hread k hk).trans hbyte)
  · rw [List.getElem?_eq_none (by rw [blocksToBytes_length, hblocks]; omega), List.getElem?_eq_none (by omega)]

/-- While a data command runs over written input, BLK holds the packed input (10_state.md R43). -/
theorem blk_of_holdsIn {i : Instr} {s : State} {bytes : List Byte} (hd : i.isData = true) (h : s.Executing i)
    (hin : s.HoldsIn bytes) : s.blk = bytesToBlocks bytes := by
  have heven : s.blk.length % 2 = 0 := by rw [((executing_runs h).data hd).blocks, Nat.mul_mod_right]
  rw [← blocksToBytes_blk hd h hin, bytesToBlocks_blocksToBytes _ heven]

/-! ### The chainings block by block -/

theorem ecbBlocks_getD (f : Block → Block) {blocks : List Block} {i : Nat} (hi : i < blocks.length) :
    (ecbBlocks f blocks).getD i 0 = f (blocks.getD i 0) := by
  rw [List.getD_eq_getElem _ _ hi, List.getD_eq_getElem _ _ ((ecbBlocks_length f blocks).symm ▸ hi)]
  exact List.getElem_map f

theorem cbcDecBlocks_getD (f : Block → Block) (iv : Block) {blocks : List Block} {i : Nat} (hi : i < blocks.length) :
    (cbcDecBlocks f iv blocks blocks).getD i 0 =
      f (blocks.getD i 0) ^^^ (if i = 0 then iv else blocks.getD (i - 1) 0) := by
  rw [List.getD_eq_getElem _ _ hi, List.getD_eq_getElem _ _ ((cbcDecBlocks_length f iv blocks).symm ▸ hi)]
  refine List.getElem_zipWith.trans ?_
  cases i with
  | zero => rfl
  | succ i => rw [List.getElem_cons_succ, if_neg (Nat.succ_ne_zero i), Nat.add_sub_cancel,
      List.getD_eq_getElem _ _ (Nat.lt_of_succ_lt hi)]

/-- The counter of block i is the first one plus i (43_mode_engine.md R177). -/
theorem ctrBlocks_getD (f : Block → Block) (iv : Block) {blocks : List Block} {i : Nat} (hi : i < blocks.length) :
    (ctrBlocks f iv blocks).getD i 0 = blocks.getD i 0 ^^^ f (iv + BitVec.ofNat 12 i) := by
  induction blocks generalizing iv i with
  | nil => cases hi
  | cons b rest ih =>
    cases i with
    | zero => rw [BitVec.ofNat_eq_ofNat, BitVec.add_zero]; rfl
    | succ i =>
      have hcounter : iv + 1 + BitVec.ofNat 12 i = iv + BitVec.ofNat 12 (i + 1) := by
        rw [Nat.add_comm i 1, BitVec.ofNat_add, BitVec.add_assoc]; rfl
      rw [ctrBlocks, List.getD_cons_succ, List.getD_cons_succ, ih _ (Nat.lt_of_succ_lt_succ hi), hcounter]

/-- A 12-bit counter wraps modulo 4096. -/
theorem counter_wraps (iv : Block) (i : Nat) : iv + BitVec.ofNat 12 i = BitVec.ofNat 12 ((iv.toNat + i) % 4096) := by
  apply BitVec.eq_of_toNat_eq
  simp

/-- The blocks of CBC encryption meet the rule's own description of them (43_mode_engine.md R175). -/
theorem isCbcChain_cbcEncBlocks (f : Block → Block) (iv : Block) (blocks : List Block) :
    IsCbcChain f iv blocks (cbcEncBlocks f iv blocks) := by
  refine ⟨cbcEncBlocks_length f iv blocks, ?_⟩
  induction blocks generalizing iv with
  | nil => intro i hi; cases hi
  | cons b rest ih =>
    intro i hi
    cases i with
    | zero => rfl
    | succ i =>
      have htail := ih (f (b ^^^ iv)) i (Nat.lt_of_succ_lt_succ hi)
      rw [cbcEncBlocks, List.getD_cons_succ, List.getD_cons_succ, htail, if_neg (Nat.succ_ne_zero i)]
      cases i with
      | zero => rfl
      | succ i => rfl

/-! ### The six commands -/

/-- The two ECB commands, in one form: BLK holds the packed input, and each block is transformed by itself
(43_mode_engine.md R173, R174). -/
theorem ecbBlocks_getD_of_holdsIn {i : Instr} {s : State} {bytes : List Byte} (hd : i.isData = true)
    (h : s.Executing i) (hin : s.HoldsIn bytes) (f : Block → Block) {j : Nat} (hj : j < (ecbBlocks f s.blk).length) :
    (ecbBlocks f s.blk).getD j 0 = f ((bytesToBlocks bytes).getD j 0) := by
  rw [ecbBlocks_length] at hj
  rw [ecbBlocks_getD f hj, blk_of_holdsIn hd h hin]

/-- Settles O19: the transform is the encryption. -/
theorem ecbEncEncryptsEachBlock : Obligations.EcbEncEncryptsEachBlock := fun s _ h hin =>
  ⟨_, dataBlocks .ecbEnc s, exec_of_isData rfl s, dataBlocks_length rfl h,
    fun _ => ecbBlocks_getD_of_holdsIn rfl h hin s.encrypt, dataBlocks_reported rfl h⟩

/-- Settles O20: the transform is the decryption. -/
theorem ecbDecDecryptsEachBlock : Obligations.EcbDecDecryptsEachBlock := fun s _ h hin =>
  ⟨_, dataBlocks .ecbDec s, exec_of_isData rfl s, dataBlocks_length rfl h,
    fun _ => ecbBlocks_getD_of_holdsIn rfl h hin s.decrypt, dataBlocks_reported rfl h⟩

/-- Settles O21: BLK holds the packed input, and the blocks computed from it are the chain. -/
theorem cbcEncChainsTheCiphertext : Obligations.CbcEncChainsTheCiphertext := by
  intro s bytes h hin
  refine ⟨_, dataBlocks .cbcEnc s, exec_of_isData rfl s, ?_, dataBlocks_reported rfl h⟩
  rw [← blk_of_holdsIn rfl h hin]
  exact isCbcChain_cbcEncBlocks s.encrypt s.iv s.blk

/-- Settles O22: CBLK is the packed input as BLK is, so the XOR is against the ciphertext itself. -/
theorem cbcDecChainsTheOriginalCiphertext : Obligations.CbcDecChainsTheOriginalCiphertext := by
  intro s bytes h hin
  have hlen := dataBlocks_length rfl h
  refine ⟨_, dataBlocks .cbcDec s, exec_of_isData rfl s, hlen, fun i hi => ?_, dataBlocks_reported rfl h⟩
  rw [hlen, ← ((executing_runs h).data rfl).blocks] at hi
  rw [← blk_of_holdsIn rfl h hin, dataBlocks, cblk_eq_blk h]
  exact cbcDecBlocks_getD s.decrypt s.iv hi

/-- The two CTR commands, in one form: the keystream is the encryption of the counter (43_mode_engine.md R177,
R178). -/
theorem ctrBlocks_getD_of_holdsIn {i : Instr} {s : State} {bytes : List Byte} (hd : i.isData = true)
    (h : s.Executing i) (hin : s.HoldsIn bytes) {j : Nat} (hj : j < (ctrBlocks s.encrypt s.iv s.blk).length) :
    (ctrBlocks s.encrypt s.iv s.blk).getD j 0 = (bytesToBlocks bytes).getD j 0 ^^^
      encBlock s.params s.key s.rounds.toNat (BitVec.ofNat 12 ((s.iv.toNat + j) % 4096)) := by
  rw [ctrBlocks_length] at hj
  rw [ctrBlocks_getD s.encrypt s.iv hj, blk_of_holdsIn hd h hin, counter_wraps]
  rfl

/-- Settles O23: the keystream of block i is the encryption of the counter that has wrapped modulo 4096. -/
theorem ctrEncXorsTheKeystream : Obligations.CtrEncXorsTheKeystream := fun s _ h hin =>
  ⟨_, dataBlocks .ctrEnc s, exec_of_isData rfl s, dataBlocks_length rfl h, fun _ => ctrBlocks_getD_of_holdsIn rfl h hin,
    dataBlocks_reported rfl h⟩

/-- Settles O24: CTR_DEC computes the blocks that CTR_ENC does. -/
theorem ctrDecXorsTheSameKeystream : Obligations.CtrDecXorsTheSameKeystream := fun s _ h hin =>
  ⟨_, dataBlocks .ctrDec s, exec_of_isData rfl s, dataBlocks_length rfl h, fun _ => ctrBlocks_getD_of_holdsIn rfl h hin,
    dataBlocks_reported rfl h⟩

/-! ### Each chaining undoes its partner -/

theorem ecbBlocks_ecbBlocks {f g : Block → Block} (hgf : ∀ b, g (f b) = b) (blocks : List Block) :
    ecbBlocks g (ecbBlocks f blocks) = blocks := by
  simp only [ecbBlocks, List.map_map, Function.comp_def, hgf, List.map_id']

/-- CBC decryption takes from each block the ciphertext that its encryption mixed in, so the XORs cancel. -/
theorem cbcDecBlocks_cbcEncBlocks {f g : Block → Block} (hgf : ∀ b, g (f b) = b) (iv : Block) (blocks : List Block) :
    cbcDecBlocks g iv (cbcEncBlocks f iv blocks) (cbcEncBlocks f iv blocks) = blocks := by
  induction blocks generalizing iv with
  | nil => rfl
  | cons b rest ih =>
    have hhead : g (f (b ^^^ iv)) ^^^ iv = b := by rw [hgf, xor_cancel_right]
    exact congrArg₂ List.cons hhead (ih (f (b ^^^ iv)))

/-- CTR is its own partner: the keystream does not depend on the blocks. -/
theorem ctrBlocks_ctrBlocks (f : Block → Block) (iv : Block) (blocks : List Block) :
    ctrBlocks f iv (ctrBlocks f iv blocks) = blocks := by
  induction blocks generalizing iv with
  | nil => rfl
  | cons b rest ih => rw [ctrBlocks, ctrBlocks, ih, xor_cancel_right]

/-! ### The block transforms of a state -/

theorem State.encrypt_congr {s u : State} (params : u.params = s.params) (key : u.key = s.key)
    (rounds : u.rounds = s.rounds) : u.encrypt = s.encrypt := by
  rw [State.encrypt, params, key, rounds, State.encrypt]

theorem State.decrypt_congr {s u : State} (params : u.params = s.params) (key : u.key = s.key)
    (rounds : u.rounds = s.rounds) : u.decrypt = s.decrypt := by
  rw [State.decrypt, params, key, rounds, State.decrypt]

theorem encrypt_injective (s : State) : Function.Injective s.encrypt :=
  Function.LeftInverse.injective (decBlock_encBlock s.params s.key s.rounds.toNat)

theorem decrypt_injective (s : State) : Function.Injective s.decrypt :=
  Function.LeftInverse.injective (encBlock_decBlock s.params s.key s.rounds.toNat)

/-! ### ECB -/

theorem isData_of_ecb {i : Instr} (hi : i = .ecbEnc ∨ i = .ecbDec) : i.isData = true := by
  rcases hi with rfl | rfl <;> rfl

/-- A block transform of no rounds is the identity (43_mode_engine.md R171). -/
theorem dataBlocks_ecb_of_zero_rounds {i : Instr} {s : State} (hi : i = .ecbEnc ∨ i = .ecbDec)
    (hrounds : s.rounds = 0) : dataBlocks i s = s.blk := by
  have henc : s.encrypt = id := by rw [State.encrypt, hrounds]; rfl
  have hdec : s.decrypt = id := by rw [State.decrypt, hrounds]; rfl
  rcases hi with rfl | rfl
  · rw [dataBlocks, henc]; exact List.map_id s.blk
  · rw [dataBlocks, hdec]; exact List.map_id s.blk

/-- Settles O26: the blocks of IN pass unchanged, and unpacking them gives the bytes of IN back. -/
theorem zeroRoundsEcbCopiesInToOut : Obligations.ZeroRoundsEcbCopiesInToOut := by
  intro i s bytes hi h hrounds hin
  have hd := isData_of_ecb hi
  have hbytes : blocksToBytes (dataBlocks i s) = bytes := by
    rw [dataBlocks_ecb_of_zero_rounds hi hrounds, blocksToBytes_blk hd h hin]
  exact ⟨_, exec_of_isData hd s, hbytes ▸ dataBlocks_holdsOut hd h⟩

/-- The two ECB commands apply one injective map to each block, the same for equal parameters. -/
theorem dataBlocks_ecb {i : Instr} (hi : i = .ecbEnc ∨ i = .ecbDec) {s u : State} (hsame : SameParameters s u) :
    ∃ f : Block → Block, Function.Injective f ∧ dataBlocks i s = ecbBlocks f s.blk ∧
      dataBlocks i u = ecbBlocks f u.blk := by
  rcases hi with rfl | rfl
  · refine ⟨s.encrypt, encrypt_injective s, rfl, ?_⟩
    rw [dataBlocks, State.encrypt_congr hsame.params hsame.key hsame.rounds]
  · refine ⟨s.decrypt, decrypt_injective s, rfl, ?_⟩
    rw [dataBlocks, State.decrypt_congr hsame.params hsame.key hsame.rounds]

/-- Settles O28: an injective map of each block by itself. -/
theorem ecbBlocksAreIndependent : Obligations.EcbBlocksAreIndependent := by
  intro i s u bytes bytes' hi hs hu hsame hin hin'
  have hd := isData_of_ecb hi
  have hlen := dataBlocks_length hd hs
  have hlen' : (dataBlocks i u).length = 2 * (s.len.toNat / 3) := hsame.len ▸ dataBlocks_length hd hu
  refine ⟨_, _, _, _, exec_of_isData hd s, exec_of_isData hd u, hlen, hlen', dataBlocks_holdsOut hd hs,
    dataBlocks_holdsOut hd hu, ?_⟩
  obtain ⟨f, hinj, hout, hout'⟩ := dataBlocks_ecb hi hsame
  rw [hout] at hlen ⊢
  rw [hout'] at hlen' ⊢
  have hget {a : Nat} (ha : a < (ecbBlocks f s.blk).length) :
      (ecbBlocks f s.blk).getD a 0 = f ((bytesToBlocks bytes).getD a 0) :=
    ecbBlocks_getD_of_holdsIn hd hs hin f ha
  have hget' {a : Nat} (ha : a < (ecbBlocks f s.blk).length) :
      (ecbBlocks f u.blk).getD a 0 = f ((bytesToBlocks bytes').getD a 0) :=
    ecbBlocks_getD_of_holdsIn hd hu hin' f (by omega)
  refine ⟨fun a b ha hb hab => ?_, fun a ha => ?_⟩
  · rw [hget ha, hget hb, hab]
  · rw [hget ha, hget' ha, hinj.eq_iff]

/-! ### CBC -/

section
variable {f : Block → Block} {iv : Block} {plain cipher plain' cipher' : List Block} {k : Nat}

/-- Two chains of inputs that agree below k agree below k. -/
theorem IsCbcChain.eq_of_lt (h : IsCbcChain f iv plain cipher) (h' : IsCbcChain f iv plain' cipher')
    (hlen : plain'.length = plain.length) (hk : k ≤ plain.length)
    (hsame : ∀ j, j < k → plain.getD j 0 = plain'.getD j 0) :
    ∀ j, j < k → cipher.getD j 0 = cipher'.getD j 0 := by
  intro j hj
  induction j with
  | zero => rw [h.2 0 (by omega), h'.2 0 (by omega), hsame 0 hj, if_pos rfl, if_pos rfl]
  | succ j ih =>
    have hprev : cipher.getD j 0 = cipher'.getD j 0 := ih (Nat.lt_of_succ_lt hj)
    rw [h.2 (j + 1) (by omega), h'.2 (j + 1) (by omega), hsame (j + 1) hj, if_neg (Nat.succ_ne_zero j),
      if_neg (Nat.succ_ne_zero j), Nat.add_sub_cancel, hprev]

/-- Two chains of inputs that differ in block k alone differ from k on: the difference enters block k, and each later
block passes it on, since the transform is injective. -/
theorem IsCbcChain.ne_of_le (h : IsCbcChain f iv plain cipher) (h' : IsCbcChain f iv plain' cipher')
    (hf : Function.Injective f) (hlen : plain'.length = plain.length) (hk : k < plain.length)
    (hdiff : plain.getD k 0 ≠ plain'.getD k 0) (hsame : ∀ j, j ≠ k → plain.getD j 0 = plain'.getD j 0) :
    ∀ j, k ≤ j → j < plain.length → cipher.getD j 0 ≠ cipher'.getD j 0 := by
  intro j hkj
  induction j, hkj using Nat.le_induction with
  | base =>
    intro _
    have hprev : (if k = 0 then iv else cipher.getD (k - 1) 0) = if k = 0 then iv else cipher'.getD (k - 1) 0 := by
      split_ifs with hzero
      · rfl
      · exact h.eq_of_lt h' hlen hk.le (fun j hj => hsame j hj.ne) (k - 1) (by omega)
    rw [h.2 k hk, h'.2 k (by omega), hprev]
    exact hf.ne fun hxor => hdiff ((BitVec.xor_left_inj _).mp hxor)
  | succ j hkj ih =>
    intro hj
    rw [h.2 (j + 1) hj, h'.2 (j + 1) (by omega), hsame (j + 1) (by omega), if_neg (Nat.succ_ne_zero j),
      if_neg (Nat.succ_ne_zero j), Nat.add_sub_cancel]
    exact hf.ne fun hxor => ih (Nat.lt_of_succ_lt hj) ((BitVec.xor_right_inj _).mp hxor)

end

/-- Settles O29: both results are chains of one injective transform. -/
theorem cbcDifferenceReachesEveryLaterBlock : Obligations.CbcDifferenceReachesEveryLaterBlock := by
  intro s u bytes bytes' k hs hu hsame hin hin' hk hdiff hothers
  have hlen := dataBlocks_length rfl hs
  have hlen' : (dataBlocks .cbcEnc u).length = 2 * (s.len.toNat / 3) := hsame.len ▸ dataBlocks_length rfl hu
  refine ⟨_, _, _, _, exec_of_isData rfl s, exec_of_isData rfl u, hlen, hlen', dataBlocks_holdsOut rfl hs,
    dataBlocks_holdsOut rfl hu, ?_⟩
  have hchain : IsCbcChain s.encrypt s.iv (bytesToBlocks bytes) (dataBlocks .cbcEnc s) := by
    rw [← blk_of_holdsIn rfl hs hin]
    exact isCbcChain_cbcEncBlocks _ _ _
  have hchain' : IsCbcChain s.encrypt s.iv (bytesToBlocks bytes') (dataBlocks .cbcEnc u) := by
    rw [← blk_of_holdsIn rfl hu hin', ← hsame.iv, ← State.encrypt_congr hsame.params hsame.key hsame.rounds]
    exact isCbcChain_cbcEncBlocks _ _ _
  have hplain : (bytesToBlocks bytes).length = (dataBlocks .cbcEnc s).length := hchain.1.symm
  have hplain' : (bytesToBlocks bytes').length = (bytesToBlocks bytes).length := by rw [← hchain'.1, hplain]; omega
  rw [← hplain]
  exact ⟨hchain.eq_of_lt hchain' hplain' (by omega) fun j hj => hothers j hj.ne,
    hchain.ne_of_le hchain' (encrypt_injective s) hplain' (by omega) hdiff hothers⟩

/-! ### Decryption after encryption -/

/-- The second command of a pair computes the blocks that the first one took, from those that the first one computed
(43_mode_engine.md R179, R180). -/
theorem dataBlocks_of_pair {enc dec : Instr} {s u : State}
    (hpair : (enc, dec) ∈ [(Instr.ecbEnc, Instr.ecbDec), (.cbcEnc, .cbcDec), (.ctrEnc, .ctrDec), (.ctrEnc, .ctrEnc),
      (.ctrDec, .ctrDec)])
    (hu : u.Executing dec) (hencrypt : u.encrypt = s.encrypt) (hdecrypt : u.decrypt = s.decrypt) (hiv : u.iv = s.iv)
    (hblk : u.blk = dataBlocks enc s) : dataBlocks dec u = s.blk := by
  have hinverse : ∀ b, s.decrypt (s.encrypt b) = b := decBlock_encBlock s.params s.key s.rounds.toNat
  simp only [List.mem_cons, Prod.mk.injEq, List.not_mem_nil, or_false] at hpair
  rcases hpair with ⟨rfl, rfl⟩ | ⟨rfl, rfl⟩ | ⟨rfl, rfl⟩ | ⟨rfl, rfl⟩ | ⟨rfl, rfl⟩
  · rw [dataBlocks, hblk, hdecrypt]
    exact ecbBlocks_ecbBlocks hinverse s.blk
  · rw [dataBlocks, cblk_eq_blk hu, hblk, hdecrypt, hiv]
    exact cbcDecBlocks_cbcEncBlocks hinverse s.iv s.blk
  all_goals
    rw [dataBlocks, hblk, hencrypt, hiv]
    exact ctrBlocks_ctrBlocks s.encrypt s.iv s.blk

/-- A core whose IN holds what a data command wrote to OUT loads the blocks that the command computed. -/
theorem blk_of_copied {enc dec : Instr} {s u : State} (hd : enc.isData = true) (hs : s.Executing enc)
    (hd' : dec.isData = true) (hu : u.Executing dec) (hlen : u.len = s.len)
    (hcopied : ∀ k, k < s.len.toNat →
      u.inBuf.read k = (s.completeData (blocksToBytes (dataBlocks enc s))).outBuf.read k) :
    u.blk = dataBlocks enc s := by
  have hbytes := dataBytes_length hd hs
  have hin : u.HoldsIn (blocksToBytes (dataBlocks enc s)) := by
    refine ⟨hbytes.trans (by rw [hlen]), fun k hk => ?_⟩
    rw [hlen] at hk
    rw [hcopied k hk, dataBlocks_holdsOut hd hs k (by omega)]
  rw [blk_of_holdsIn hd' hu hin, bytesToBlocks_blocksToBytes]
  rw [dataBlocks_length hd hs]
  omega

/-- Settles O27: the second command loads the blocks that the first one computed, and undoes it. -/
theorem decryptionReturnsThePlaintext : Obligations.DecryptionReturnsThePlaintext := by
  intro enc dec s bytes hpair hs hin
  have hdata : enc.isData = true ∧ dec.isData = true := by
    simp only [List.mem_cons, Prod.mk.injEq, List.not_mem_nil, or_false] at hpair
    rcases hpair with ⟨rfl, rfl⟩ | ⟨rfl, rfl⟩ | ⟨rfl, rfl⟩ | ⟨rfl, rfl⟩ | ⟨rfl, rfl⟩ <;> exact ⟨rfl, rfl⟩
  obtain ⟨hd, hd'⟩ := hdata
  refine ⟨_, exec_of_isData hd s, fun u hu hparams hkey hrounds hiv hlen hcopied => ⟨_, exec_of_isData hd' u, ?_⟩⟩
  have hencrypt := State.encrypt_congr hparams hkey hrounds
  have hdecrypt := State.decrypt_congr hparams hkey hrounds
  have hplain : blocksToBytes (dataBlocks dec u) = bytes := by
    rw [dataBlocks_of_pair hpair hu hencrypt hdecrypt hiv (blk_of_copied hd hs hd' hu hlen hcopied),
      blocksToBytes_blk hd hs hin]
  exact hplain ▸ dataBlocks_holdsOut hd' hu

end Sys2Proof.Machine
end

section
/-! PROOFS. The work of a command (43_mode_engine.md R164: O30). A list of evaluations of f decides a result when
tables that agree on all of it give the same result, and tables that agree on all but the last, another one. Such lists
compose along the rounds of a block and along the blocks of a command. -/

namespace Sys2Proof.Machine

/-! ### Lists of evaluations that decide a result -/

/-- Two choices of tables give f the same value on every evaluation of the list. -/
def AgreesOn (p q : Params) (evals : List (Half × Subkey)) : Prop :=
  ∀ e ∈ evals, roundF q e.1 e.2 = roundF p e.1 e.2

/-- Two choices of tables give f another value on the last evaluation of the list, and there alone. -/
def DiffersAtLast (p q : Params) (evals : List (Half × Subkey)) : Prop :=
  ∃ before last, evals = before ++ [last] ∧ AgreesOn p q before ∧ roundF q last.1 last.2 ≠ roundF p last.1 last.2

/-- The list decides whether the result `y` for the tables of `q` is the result `x` for those of `p`. -/
structure Decides {α : Type} (p q : Params) (evals : List (Half × Subkey)) (x y : α) : Prop where
  same : AgreesOn p q evals → y = x
  other : DiffersAtLast p q evals → y ≠ x

section
variable {α β : Type} {p q : Params} {evals evals' : List (Half × Subkey)} {x y : α} {x' y' : β}

theorem agreesOn_append : AgreesOn p q (evals ++ evals') ↔ AgreesOn p q evals ∧ AgreesOn p q evals' :=
  List.forall_mem_append

theorem agreesOn_singleton {e : Half × Subkey} : AgreesOn p q [e] ↔ roundF q e.1 e.2 = roundF p e.1 e.2 :=
  List.forall_mem_singleton

theorem not_differsAtLast_nil : ¬ DiffersAtLast p q [] := by
  rintro ⟨before, last, hevals, -⟩
  simp at hevals

/-- The last evaluation of two lists is that of the second, or of the first where the second is empty. -/
theorem DiffersAtLast.of_append (h : DiffersAtLast p q (evals ++ evals')) :
    evals' = [] ∧ DiffersAtLast p q evals ∨ AgreesOn p q evals ∧ DiffersAtLast p q evals' := by
  obtain ⟨before, last, hevals, hbefore, hlast⟩ := h
  rcases List.eq_nil_or_concat evals' with rfl | ⟨init, e, rfl⟩
  · exact .inl ⟨rfl, before, last, by rwa [List.append_nil] at hevals, hbefore, hlast⟩
  · rw [List.concat_eq_append, ← List.append_assoc] at hevals
    obtain ⟨rfl, hsingle⟩ := List.append_inj' hevals rfl
    obtain ⟨hfirst, hinit⟩ := agreesOn_append.mp hbefore
    exact .inr ⟨hfirst, init, last, by rw [List.concat_eq_append, hsingle], hinit, hlast⟩

theorem Decides.nil (x : α) : Decides p q [] x x := ⟨fun _ => rfl, fun h => absurd h not_differsAtLast_nil⟩

theorem Decides.singleton {e : Half × Subkey} (h : y = x ↔ roundF q e.1 e.2 = roundF p e.1 e.2) :
    Decides p q [e] x y := by
  refine ⟨fun hagree => h.mpr (agreesOn_singleton.mp hagree), fun hdiffer => ?_⟩
  rcases DiffersAtLast.of_append (evals := []) hdiffer with ⟨hnil, -⟩ | ⟨-, before, last, hevals, -, hlast⟩
  · cases hnil
  · obtain ⟨-, hsingle⟩ := List.append_inj' (s₁ := []) hevals rfl
    cases hsingle
    exact mt h.mp hlast

theorem Decides.congr (h : Decides p q evals x y) (hiff : y' = x' ↔ y = x) : Decides p q evals x' y' :=
  ⟨fun hagree => hiff.mpr (h.same hagree), fun hdiffer => mt hiff.mp (h.other hdiffer)⟩

/-- One computation after another: the second list decides the second result where the first results agree, and a
first result that differs shows in the second where the second makes no evaluation. -/
theorem Decides.append (h : Decides p q evals x y) (h' : y = x → Decides p q evals' x' y')
    (hnil : evals' = [] → y ≠ x → y' ≠ x') : Decides p q (evals ++ evals') x' y' := by
  constructor
  · intro hagree
    obtain ⟨hfirst, hsecond⟩ := agreesOn_append.mp hagree
    exact (h' (h.same hfirst)).same hsecond
  · intro hdiffer
    rcases hdiffer.of_append with ⟨hempty, hfirst⟩ | ⟨hfirst, hsecond⟩
    · exact hnil hempty (h.other hfirst)
    · exact (h' (h.same hfirst)).other hsecond

/-- One result in front of a list of results. -/
theorem Decides.cons {xs ys : List α} (h : Decides p q evals x y) (h' : y = x → Decides p q evals' xs ys) :
    Decides p q (evals ++ evals') (x :: xs) (y :: ys) :=
  h.append (fun hyx => (h' hyx).congr (by rw [hyx, List.cons_inj_right])) fun _ hyx hcons =>
    hyx (List.cons_eq_cons.mp hcons).1

end

/-! ### The rounds of a block -/

section
variable (p q : Params) (key : BitVec 32)

theorem encRound_eq_iff (b : Block) (k : Subkey) :
    encRound q b k = encRound p b k ↔ roundF q (rightHalf b) k = roundF p (rightHalf b) k := by
  rw [encRound, encRound, BitVec.append_right_inj, BitVec.xor_left_inj]

theorem decRound_eq_iff (b : Block) (k : Subkey) :
    decRound q b k = decRound p b k ↔ roundF q (leftHalf b) k = roundF p (leftHalf b) k := by
  rw [decRound, decRound, BitVec.append_left_inj, BitVec.xor_left_inj]

theorem encBlock_decides (n : Nat) (b : Block) :
    Decides p q (encEvals p key n b) (encBlock p key n b) (encBlock q key n b) := by
  induction n with
  | zero => exact Decides.nil b
  | succ n ih =>
    refine ih.append (fun hsame => ?_) fun hnil => absurd hnil (List.cons_ne_nil _ _)
    rw [encBlock_succ, encBlock_succ, hsame]
    exact Decides.singleton (encRound_eq_iff p q _ _)

theorem decBlock_decides (n : Nat) (b : Block) :
    Decides p q (decEvals p key n b) (decBlock p key n b) (decBlock q key n b) := by
  induction n generalizing b with
  | zero => exact Decides.nil b
  | succ n ih =>
    have hround := Decides.singleton (e := (leftHalf b, subkey key (n + 1))) (decRound_eq_iff p q b _)
    refine hround.append (evals' := decEvals p key n (decRound p b (subkey key (n + 1)))) (fun hsame => ?_) ?_
    · rw [decBlock_succ, decBlock_succ, hsame]
      exact ih _
    · cases n with
      | zero => exact fun _ => id
      | succ n => exact fun hnil => absurd hnil (List.cons_ne_nil _ _)

theorem encEvals_length (n : Nat) (b : Block) : (encEvals p key n b).length = n := by
  induction n with
  | zero => rfl
  | succ n ih => rw [encEvals, List.length_append, ih, List.length_singleton]

theorem decEvals_length (n : Nat) (b : Block) : (decEvals p key n b).length = n := by
  induction n generalizing b with
  | zero => rfl
  | succ n ih => rw [decEvals, List.length_cons, ih]

end

/-! ### The blocks of a data command -/

section
variable {p q : Params} {f g : Block → Block} {evals : Block → List (Half × Subkey)}

theorem ecbBlocks_decides (h : ∀ b, Decides p q (evals b) (f b) (g b)) (blocks : List Block) :
    Decides p q (blocks.flatMap evals) (ecbBlocks f blocks) (ecbBlocks g blocks) := by
  induction blocks with
  | nil => exact Decides.nil []
  | cons b rest ih => exact (h b).cons fun _ => ih

theorem cbcEncBlocks_decides (h : ∀ b, Decides p q (evals b) (f b) (g b)) (iv : Block) (blocks : List Block) :
    Decides p q (cbcEncEvals f evals iv blocks) (cbcEncBlocks f iv blocks) (cbcEncBlocks g iv blocks) := by
  induction blocks generalizing iv with
  | nil => exact Decides.nil []
  | cons b rest ih =>
    refine (h (b ^^^ iv)).cons fun hsame => ?_
    rw [hsame]
    exact ih _

/-- The XOR with the block before makes no evaluation; every block needs a block before it. -/
theorem zipWith_xor_decides (h : ∀ b, Decides p q (evals b) (f b) (g b)) {blocks previous : List Block}
    (hlen : blocks.length ≤ previous.length) :
    Decides p q (blocks.flatMap evals) (List.zipWith (fun c prev => f c ^^^ prev) blocks previous)
      (List.zipWith (fun c prev => g c ^^^ prev) blocks previous) := by
  induction blocks generalizing previous with
  | nil => exact Decides.nil []
  | cons b rest ih =>
    cases previous with
    | nil => cases hlen
    | cons prev previous =>
      exact ((h b).congr (BitVec.xor_left_inj prev)).cons fun _ => ih (Nat.le_of_succ_le_succ hlen)

theorem cbcDecBlocks_decides (h : ∀ b, Decides p q (evals b) (f b) (g b)) (iv : Block) (blocks : List Block) :
    Decides p q (blocks.flatMap evals) (cbcDecBlocks f iv blocks blocks) (cbcDecBlocks g iv blocks blocks) :=
  zipWith_xor_decides h (Nat.le_succ _)

theorem ctrBlocks_decides (h : ∀ b, Decides p q (evals b) (f b) (g b)) (iv : Block) (blocks : List Block) :
    Decides p q (ctrEvals evals iv blocks) (ctrBlocks f iv blocks) (ctrBlocks g iv blocks) := by
  induction blocks generalizing iv with
  | nil => exact Decides.nil []
  | cons b rest ih => exact ((h iv).congr (BitVec.xor_right_inj b)).cons fun _ => ih _

theorem flatMap_evals_length {n : Nat} (h : ∀ b, (evals b).length = n) (blocks : List Block) :
    (blocks.flatMap evals).length = blocks.length * n := by
  simp [List.length_flatMap, h]

theorem cbcEncEvals_length {n : Nat} (h : ∀ b, (evals b).length = n) (iv : Block) (blocks : List Block) :
    (cbcEncEvals f evals iv blocks).length = blocks.length * n := by
  induction blocks generalizing iv with
  | nil => exact (Nat.zero_mul n).symm
  | cons b rest ih => rw [cbcEncEvals, List.length_append, h, ih, List.length_cons, Nat.succ_mul, Nat.add_comm]

theorem ctrEvals_length {n : Nat} (h : ∀ b, (evals b).length = n) (iv : Block) (blocks : List Block) :
    (ctrEvals evals iv blocks).length = blocks.length * n := by
  induction blocks generalizing iv with
  | nil => exact (Nat.zero_mul n).symm
  | cons b rest ih => rw [ctrEvals, List.length_append, h, ih, List.length_cons, Nat.succ_mul, Nat.add_comm]

end

/-! ### The evaluations of a command -/

/-- The counts of 43_mode_engine.md R164. -/
theorem commandEvals_length {i : Instr} {s : State} (h : s.Executing i) :
    (commandEvals i s).length =
      (if i.isData then 2 * (s.len.toNat / 3) * s.rounds.toNat
      else if i = .blkEnc ∨ i = .blkDec then s.rounds.toNat
      else if i = .fEval then 1
      else 0) := by
  have henc := encEvals_length s.params s.key s.rounds.toNat
  have hdec := decEvals_length s.params s.key s.rounds.toNat
  cases hd : i.isData with
  | true =>
    rw [if_pos rfl, ← ((executing_runs h).data hd).blocks]
    cases i with
    | ecbEnc => exact flatMap_evals_length henc s.blk
    | ecbDec | cbcDec => exact flatMap_evals_length hdec s.blk
    | cbcEnc => exact cbcEncEvals_length henc s.iv s.blk
    | ctrEnc | ctrDec => exact ctrEvals_length henc s.iv s.blk
    | expand | sbox | fEval | ksEval | blkEnc | blkDec => cases hd
  | false =>
    cases i with
    | blkEnc => exact henc s.operandBlock
    | blkDec => exact hdec s.operandBlock
    | expand | sbox | fEval | ksEval => rfl
    | ecbEnc | ecbDec | cbcEnc | cbcDec | ctrEnc | ctrDec => cases hd

theorem dataBlocks_decides {i : Instr} {s : State} (hd : i.isData = true) (h : s.Executing i) (q : Params) :
    Decides s.params q (commandEvals i s) (dataBlocks i s) (dataBlocks i { s with params := q }) := by
  have henc := encBlock_decides s.params q s.key s.rounds.toNat
  have hdec := decBlock_decides s.params q s.key s.rounds.toNat
  cases i with
  | ecbEnc => exact ecbBlocks_decides henc s.blk
  | ecbDec => exact ecbBlocks_decides hdec s.blk
  | cbcEnc => exact cbcEncBlocks_decides henc s.iv s.blk
  | cbcDec =>
    rw [dataBlocks, dataBlocks, cblk_eq_blk h]
    exact cbcDecBlocks_decides hdec s.iv s.blk
  | ctrEnc | ctrDec => exact ctrBlocks_decides henc s.iv s.blk
  | expand | sbox | fEval | ksEval | blkEnc | blkDec => cases hd

/-- Writes of as many bytes from one entry on leave equal buffers only where the bytes are equal. -/
theorem Memory.writeBytes_inj {m : Memory} {k : Nat} {xs ys : List Byte} (hlen : xs.length = ys.length)
    (h : m.writeBytes k xs = m.writeBytes k ys) : xs = ys := by
  apply List.ext_getElem?
  intro j
  by_cases hj : j < xs.length
  · have hread := congrArg (fun m => Memory.read m (k + j)) h
    rwa [Memory.read_writeBytes, Memory.read_writeBytes, if_pos (by omega), if_pos (by omega),
      Nat.add_sub_cancel_left] at hread
  · rw [List.getElem?_eq_none (by omega), List.getElem?_eq_none (by omega)]

/-- OUT after a data command shows the blocks that it computed. -/
theorem dataBlocks_eq_of_outBuf_eq {i : Instr} {s : State} (hd : i.isData = true) (h : s.Executing i) (q : Params)
    (hout : (State.completeData (blocksToBytes (dataBlocks i { s with params := q })) { s with params := q }).outBuf =
      (s.completeData (blocksToBytes (dataBlocks i s))).outBuf) :
    dataBlocks i { s with params := q } = dataBlocks i s := by
  have hblocks := dataBlocks_length hd h
  have hblocks' : (dataBlocks i { s with params := q }).length = 2 * (s.len.toNat / 3) :=
    (dataBlocks_length_eq_blk (s := { s with params := q }) hd fun hi => cblk_eq_blk (s := s) (hi ▸ h)).trans
      ((executing_runs h).data hd).blocks
  have hlen := dataBytes_length hd h
  have hlen' : (blocksToBytes (dataBlocks i { s with params := q })).length = s.len.toNat := by
    rw [← hlen, blocksToBytes_length, blocksToBytes_length, hblocks, hblocks']
  rw [State.completeData_outBuf, State.completeData_outBuf, List.take_of_length_le hlen'.le,
    List.take_of_length_le hlen.le] at hout
  have hbytes := congrArg bytesToBlocks (Memory.writeBytes_inj (hlen'.trans hlen.symm) hout)
  rwa [bytesToBlocks_blocksToBytes _ (by omega), bytesToBlocks_blocksToBytes _ (by omega)] at hbytes

/-- The evaluations of a data command decide what it writes to OUT. -/
theorem outBuf_decides {i : Instr} {s : State} (hd : i.isData = true) (h : s.Executing i) (q : Params) :
    Decides s.params q (commandEvals i s) (s.completeData (blocksToBytes (dataBlocks i s))).outBuf
      (State.completeData (blocksToBytes (dataBlocks i { s with params := q })) { s with params := q }).outBuf :=
  (dataBlocks_decides hd h q).congr ⟨dataBlocks_eq_of_outBuf_eq hd h q, fun heq => by rw [heq]; rfl⟩

theorem setWidth_res_inj {v w : Half} : v.setWidth 12 = w.setWidth 12 ↔ v = w := by
  refine ⟨fun h => ?_, fun h => h ▸ rfl⟩
  simpa using congrArg (BitVec.setWidth 6) h

/-- The evaluations of a diagnostic command decide what it writes to RES; SBOX makes none and reads the tables
directly (40_round_function.md R109). -/
theorem res_decides {i : Instr} (hd : i.isData = false) (s : State) (q : Params) :
    ∃ x y, exec i s = .next (s.completeDiag x) ∧
      exec i { s with params := q } = .next (State.completeDiag y { s with params := q }) ∧
      ((i = .sbox → substitute q s.operandMixed = substitute s.params s.operandMixed) →
        Decides s.params q (commandEvals i s) x y) := by
  cases i with
  | expand | ksEval => exact ⟨_, _, rfl, rfl, fun _ => Decides.nil _⟩
  | sbox =>
    refine ⟨_, _, exec_sbox s, exec_sbox { s with params := q }, fun hsbox => ?_⟩
    have hmixed : substitute q (State.operandMixed { s with params := q }) = substitute s.params s.operandMixed :=
      hsbox rfl
    rw [hmixed]
    exact Decides.nil _
  | fEval => exact ⟨_, _, rfl, rfl, fun _ => Decides.singleton setWidth_res_inj⟩
  | blkEnc => exact ⟨_, _, rfl, rfl, fun _ => encBlock_decides s.params q s.key s.rounds.toNat s.operandBlock⟩
  | blkDec => exact ⟨_, _, rfl, rfl, fun _ => decBlock_decides s.params q s.key s.rounds.toNat s.operandBlock⟩
  | ecbEnc | ecbDec | cbcEnc | cbcDec | ctrEnc | ctrDec => cases hd

/-- Settles O30: the counts, and the list of evaluations decides the result in OUT or in RES. -/
theorem commandsEvaluateTheRoundFunctionExactlyAsOften :
    Obligations.CommandsEvaluateTheRoundFunctionExactlyAsOften := by
  intro i s h
  refine ⟨commandEvals_length h, fun q hagree hsbox => ?_, fun q before last hevals hbefore hlast => ?_⟩
  · cases hd : i.isData with
    | true => exact ⟨_, _, exec_of_isData hd s, exec_of_isData hd _, (outBuf_decides hd h q).same hagree, rfl⟩
    | false =>
      obtain ⟨x, y, hx, hy, hdecides⟩ := res_decides hd s q
      exact ⟨_, _, hx, hy, rfl, (hdecides hsbox).same hagree⟩
  · have hdiffer : DiffersAtLast s.params q (commandEvals i s) := ⟨before, last, hevals, hbefore, hlast⟩
    cases hd : i.isData with
    | true => exact ⟨_, _, exec_of_isData hd s, exec_of_isData hd _, (outBuf_decides hd h q).other hdiffer⟩
    | false =>
      obtain ⟨x, y, hx, hy, hdecides⟩ := res_decides hd s q
      have hnotSbox : i ≠ .sbox := by
        rintro rfl
        exact not_differsAtLast_nil hdiffer
      exact ⟨_, _, hx, hy, (hdecides fun hi => absurd hi hnotSbox).other hdiffer⟩

end Sys2Proof.Machine
end

section
/-! PROOFS. A command from its issue to its completion (43_mode_engine.md R160–R163): acceptance (O31, O32), the
engine's turn (O43, O44, O45, O57), and the end of every run (O55). -/

namespace Sys2Proof.Machine

/-! ### Acceptance -/

/-- A command's own word passes the checks of acceptance when LEN is legal (43_mode_engine.md R160). -/
theorem checkCommand_encode {i : Instr} {s : State} (hl : i.isData = true → s.LenLegal) :
    s.checkCommand (encode i) = .ok i := by
  simp only [State.checkCommand, decode_encode]
  split_ifs with hd hrange halign
  · exact absurd (hl hd).1 (Nat.not_le.mpr hrange)
  · exact absurd (hl hd).2 halign
  · rfl
  · rfl

theorem acceptCommand_encode {i : Instr} {s : State} (hl : i.isData = true → s.LenLegal) :
    s.acceptCommand (encode i) = s.clearStatus.startCommand i := by
  simp only [State.acceptCommand, checkCommand_encode hl]

theorem storeAt_cmd (w : Word) (s : State) : s.storeAt .cmd w = s.acceptCommand w := rfl

/-- The command that a ready core accepts is the one that its engine then executes. -/
theorem executing_startCommand {i : Instr} {s : State} (h : s.Ready) (hl : i.isData = true → s.LenLegal) :
    (s.clearStatus.startCommand i).Executing i :=
  ⟨inv_startCommand h.sound hl h.released, rfl, rfl⟩

/-- The input list, the response, the host's copy and the counter of free values are no inputs of a command. -/
theorem State.Executing.setRecord {i : Instr} {s : State} (h : s.Executing i) (inputs : List Input)
    (rsp : Option Response) (lastRead : Word) (draws : Nat) :
    { s with inputs := inputs, rsp := rsp, lastRead := lastRead, draws := draws }.Executing i :=
  ⟨inv_setRecord h.sound inputs rsp lastRead draws, h.busy, h.latched⟩

/-- The state after the issue of the command `i` to the core `s`, with the inputs `rest` left. `step_issue` ties it to
the step. -/
def issued (i : Instr) (s : State) (rest : List Input) : State :=
  (State.startCommand i { s with inputs := rest }.clearStatus).respond .written

section
variable {i : Instr} {s : State} (h : s.Ready) (hl : i.isData = true → s.LenLegal)
include h hl

/-- A step on the issue of a legal command to a ready core starts it (43_mode_engine.md R160). -/
theorem step_issue {rest : List Input} (hi : s.inputs = wr .cmd (encode i) :: rest) :
    step s = .next (issued i s rest) := by
  rw [step_wr (loc := .cmd) h.released trivial hi,
    hostWrite_of_not_busy (show { s with inputs := rest }.status.busy = false from not_busy_of_ready h), storeAt_cmd,
    acceptCommand_encode (s := { s with inputs := rest }) hl, issued]

theorem executing_issued (rest : List Input) : (issued i s rest).Executing i :=
  (executing_startCommand h hl).setRecord rest (some .written) s.lastRead _

end

/-- Settles O32: acceptance latches the OP, clears and sets STATUS, and loads the block buffers. -/
theorem legalCommandStarts : Obligations.LegalCommandStarts := by
  intro i s rest h hl hi
  refine ⟨_, step_issue h hl hi, rfl, rfl, rfl, ⟨rfl, rfl, rfl, rfl, rfl, rfl, rfl, rfl, rfl, rfl⟩, rfl, rfl,
    executing_issued h hl rest, fun hd bytes hin => ⟨blk_of_holdsIn hd (executing_issued h hl rest) hin, ?_⟩⟩
  have hmissing : State.missingInputs { s with inputs := rest }.clearStatus = [] := (inputBytes_of_holdsIn hin).2
  simp [issued, hd, hmissing]

/-! ### The result of an accepted command -/

/-- A data command's blocks rest on the tables, KEY, ROUNDS, IV and the block buffers. -/
theorem dataBlocks_congr {i : Instr} {s u : State} (hsame : SameParameters s u) (hblk : u.blk = s.blk)
    (hcblk : u.cblk = s.cblk) : dataBlocks i u = dataBlocks i s := by
  have hencrypt := State.encrypt_congr hsame.params hsame.key hsame.rounds
  have hdecrypt := State.decrypt_congr hsame.params hsame.key hsame.rounds
  cases i <;> simp only [dataBlocks, hencrypt, hdecrypt, hsame.iv, hblk, hcblk]

/-- A diagnostic command's result rests on the tables, KEY, ROUNDS, DA and DB. -/
theorem exec_diag_congr {i : Instr} {s u : State} (hd : i.isData = false) (hsame : SameParameters s u) :
    ∃ v, exec i s = .next (s.completeDiag v) ∧ exec i u = .next (u.completeDiag v) := by
  cases s
  cases u
  obtain ⟨hparams, hkey, hrounds, -, -, hda, hdb⟩ := hsame
  cases hparams; cases hkey; cases hrounds; cases hda; cases hdb
  cases i with
  | expand | sbox | fEval | ksEval | blkEnc | blkDec => exact ⟨_, rfl, rfl⟩
  | ecbEnc | ecbDec | cbcEnc | cbcDec | ctrEnc | ctrDec => cases hd

/-- CBLK of a running data command is what BLK is, or nothing (10_state.md R43). -/
theorem cblk_congr {i : Instr} {s u : State} (hd : i.isData = true) (hs : s.Executing i) (hu : u.Executing i)
    (hblk : u.blk = s.blk) : u.cblk = s.cblk := by
  rw [((executing_runs hu).data hd).copy, ((executing_runs hs).data hd).copy, hblk]

/-- Settles O31: both cores load the same blocks from the same bytes, and no result rests on anything else. -/
theorem resultDependsOnTheCommandInputsOnly : Obligations.ResultDependsOnTheCommandInputsOnly := by
  intro i s u bytes hs hu hl hsame hin
  have hl' : i.isData = true → u.LenLegal := fun hd => by
    rw [State.LenLegal, hsame.len, hsame.params]
    exact hl hd
  have hs' := executing_startCommand hs hl
  have hu' := executing_startCommand hu hl'
  have hsame' : SameParameters (s.clearStatus.startCommand i) (u.clearStatus.startCommand i) :=
    ⟨hsame.params, hsame.key, hsame.rounds, hsame.iv, hsame.len, hsame.da, hsame.db⟩
  rw [acceptCommand_encode hl, acceptCommand_encode hl']
  cases hd : i.isData with
  | true =>
    obtain ⟨hsIn, huIn⟩ := hin hd
    have hblk : (u.clearStatus.startCommand i).blk = (s.clearStatus.startCommand i).blk :=
      (blk_of_holdsIn hd hu' huIn).trans (blk_of_holdsIn hd hs' hsIn).symm
    have hblocks := dataBlocks_congr (i := i) hsame' hblk (cblk_congr hd hs' hu' hblk)
    have hlen := dataBytes_length hd hs'
    refine ⟨_, _, exec_of_isData hd _, exec_of_isData hd _, fun _ k hk => ?_, fun hd' => by cases hd'⟩
    have hk : k < (s.clearStatus.startCommand i).len.toNat := hk
    rw [dataBlocks_holdsOut hd hs' k (by omega), dataBlocks_holdsOut hd hu' k (by rw [hblocks]; omega), hblocks]
  | false =>
    obtain ⟨v, hv, hv'⟩ := exec_diag_congr hd hsame'
    exact ⟨_, _, hv, hv', fun hd' => absurd hd' Bool.false_ne_true, fun _ => rfl⟩

/-! ### The engine's turn -/

theorem engineTurn_of_latched {i : Instr} {s : State} (hp : s.phase = .busy) (ho : s.opr = i.opcode) :
    engineTurn s = exec i s := by
  simp only [engineTurn, hp, ho, ofOpcode_opcode]

/-- Settles O43: the word with OPR's value below zeros is the command's own, so OPR holds its OP. -/
theorem stepExecutesTheCommandInOpr : Obligations.StepExecutesTheCommandInOpr := by
  intro s i rest hp hdecode hturn
  have hword : 0#28 ++ s.opr = 0#28 ++ i.opcode := (decodeIsTheInverseOfEncode _ i).mp hdecode
  have hopr : s.opr = i.opcode := (BitVec.append_right_inj _).mp hword
  rcases hturn with ⟨hi, rfl⟩ | hi
  · rw [step_nil hi, engineTurn_of_latched hp hopr, ← hi]
  · exact step_engine_of_latched hp hopr hi

theorem Status.eq_of_fields {st : Status} {busy done err ovr : Bool} {errCode : BitVec 4} (hbusy : st.busy = busy)
    (hdone : st.done = done) (herr : st.err = err) (hovr : st.ovr = ovr) (hcode : st.errCode = errCode) :
    st = { busy := busy, done := done, err := err, ovr := ovr, errCode := errCode } := by
  subst hbusy hdone herr hovr hcode
  rfl

/-- Settles O44: the issue starts the command, and the engine's turn completes it with STATUS as the start left it but
for BUSY and DONE. -/
theorem issuedCommandIsExecutedAndCompletes : Obligations.IssuedCommandIsExecutedAndCompletes := by
  intro i s rest h hl hi
  obtain ⟨u, hexec, hcompleted, hframe⟩ := exec_completes i { issued i s (.engine :: rest) with inputs := rest }
  refine ⟨_, u, step_issue h hl hi, (step_engine_of_latched rfl rfl rfl).trans hexec, hexec, ?_, hcompleted.idle,
    hframe.inputs⟩
  exact Status.eq_of_fields hcompleted.notBusy hcompleted.done hframe.err hframe.ovr hframe.errCode

/-- The core on which `placeCommand` has a command accepted: idle and out of reset. -/
def idled (s : State) : State :=
  { s with resetLine := false, status := { s.status with busy := false }, phase := .idle, blk := [], cblk := [] }

/-- A legal command's word is placed by its acceptance, before the engine's turn (notes/assumptions/13.md). -/
theorem withFetchWord_encode {i : Instr} {s : State} (hl : i.isData = true → s.LenLegal) :
    s.withFetchWord 32 (encode i).toNat =
      { (idled s).clearStatus.startCommand i with inputs := .engine :: s.inputs } := by
  have hword : BitVec.ofNat 32 ((encode i).toNat % 2 ^ 32) = encode i := by
    rw [Nat.mod_eq_of_lt (encode i).isLt, BitVec.ofNat_toNat, BitVec.setWidth_eq]
  have hcheck := checkCommand_encode (s := idled s) hl
  have haccept := acceptCommand_encode (s := idled s) hl
  rw [State.withFetchWord, hword]
  unfold idled at hcheck haccept ⊢
  simp only [placeCommand, hcheck, haccept]

/-- Settles O45: the placed command has been accepted, and the step is the engine's turn. -/
theorem placedCommandIsExecuted : Obligations.PlacedCommandIsExecuted := by
  intro i s hl
  obtain ⟨u, hexec, hcompleted, -⟩ := exec_completes i ((idled s).clearStatus.startCommand i)
  refine ⟨(idled s).clearStatus.startCommand i, rfl, rfl, ⟨rfl, rfl, rfl, rfl, rfl, rfl, rfl, rfl, rfl, rfl⟩, ?_, u,
    hexec, hcompleted.idle⟩
  rw [withFetchWord_encode hl]
  exact step_engine_of_latched rfl rfl rfl

/-- Settles O57: the completed command leaves its result where the read finds it, out of reset and not BUSY. -/
theorem hostReadsTheResultOfTheCommand : Obligations.HostReadsTheResultOfTheCommand := by
  intro i s rest h
  have hr := resetLine_of_busy h.sound (executing_busyNotDone h).1
  refine ⟨fun _ hi => ?_, fun hd k hk hi => ?_⟩
  · obtain ⟨t, hexec, hcompleted, hframe⟩ := exec_completes i { s with inputs := rd .res :: rest }
    have hread := step_rd (loc := .res) (hframe.resetLine.trans hr) trivial hframe.inputs
    rw [hostRead_res (s := { t with inputs := rest }) hcompleted.notBusy] at hread
    exact ⟨t, _, (step_engine_of_latched h.busy h.latched hi).trans hexec, hexec, hread, rfl⟩
  · have hexec := exec_of_isData hd { s with inputs := rd (.outEntry k) :: rest }
    have hs := h.setRecord (rd (.outEntry k) :: rest) s.rsp s.lastRead s.draws
    have hbyte := dataBlocks_holdsOut hd hs k (by rw [dataBytes_length hd hs]; exact hk)
    rw [List.getElem?_eq_getElem (by rw [dataBytes_length hd hs]; exact hk)] at hbyte
    have hcapacity : k < s.params.bufBytes := lt_of_lt_of_le hk ((executing_runs h).data hd).lenLegal.1
    refine ⟨_, _, _, (step_engine_of_latched h.busy h.latched hi).trans hexec, hexec,
      step_rd_outEntry_of_some hr hcapacity rfl hbyte rfl, hbyte, ?_⟩
    rw [State.returnData_rsp, asWord_eq_ofNat]

/-! ### The end of a run -/

theorem acceptCommand_inputs (w : Word) (s : State) : (s.acceptCommand w).inputs = s.inputs := by
  rcases acceptCommand_cases w s with ⟨_, -, ha⟩ | ⟨_, -, ha⟩ <;> rw [ha] <;> rfl

theorem hostWrite_inputs (loc : Location) (data : Word) (s : State) : (s.hostWrite loc data).inputs = s.inputs := by
  rcases hostWrite_cases loc data s with ⟨-, -, hw⟩ | ⟨-, hw⟩ | ⟨-, -, hw⟩ | ⟨-, _, -, hw⟩ |
    ⟨-, _, _, _, _, _, _, -, hw⟩ <;> rw [hw]
  case inr.inr.inl => exact acceptCommand_inputs data s
  all_goals rfl

/-- The state that an execution answers with is that of its completion (43_mode_engine.md R162). -/
theorem exec_next {i : Instr} {s t : State} (h : exec i s = .next t) : Completed t ∧ CommonFrame s t := by
  obtain ⟨u, hu, hcompletes⟩ := exec_completes i s
  rw [hu] at h
  cases h
  exact hcompletes

/-- A step takes one input off the list. -/
theorem step_inputs {s t : State} (h : step s = .next t) : t.inputs = s.inputs.tail := by
  rcases step_next_cases h with ⟨_, _, _, rfl⟩ | ⟨loc, data, -, -, rfl⟩ | ⟨asserted, -, rfl⟩ | ⟨i, -, -, -, he⟩
  · rfl
  · exact hostWrite_inputs loc data s.takeInput
  · cases asserted <;> rfl
  · exact (exec_next he).2.inputs

/-- A command runs, or one has completed. -/
def Status.reports (st : Status) : Prop := st.busy = true ∨ st.done = true

theorem acceptCommand_reports (w : Word) (s : State) : (s.acceptCommand w).status.reports := by
  rcases acceptCommand_cases w s with ⟨_, -, ha⟩ | ⟨_, -, ha⟩ <;> rw [ha]
  · exact .inl rfl
  · exact .inr rfl

theorem hostWrite_reports {s : State} (h : s.status.reports) (loc : Location) (data : Word) :
    (s.hostWrite loc data).status.reports := by
  rcases hostWrite_cases loc data s with ⟨-, -, hw⟩ | ⟨-, hw⟩ | ⟨-, -, hw⟩ | ⟨-, _, -, hw⟩ |
    ⟨-, _, _, _, _, _, _, -, hw⟩ <;> rw [hw]
  case inr.inr.inl => exact acceptCommand_reports data s
  all_goals exact h

/-- Only the assertion of reset takes BUSY and DONE away together (70_reset_and_hazards.md R231). -/
theorem step_reports {s t : State} (h : step s = .next t) (hreset : s.inputs.head? ≠ some (.reset true))
    (hs : s.status.reports) : t.status.reports := by
  rcases step_next_cases h with ⟨_, _, _, rfl⟩ | ⟨loc, data, -, -, rfl⟩ | ⟨asserted, hx, rfl⟩ | ⟨i, -, -, -, he⟩
  · exact hs
  · exact hostWrite_reports (s := s.takeInput) hs loc data
  · cases asserted with
    | false => exact hs
    | true => exact absurd hx hreset
  · exact .inr (exec_next he).1.done

/-- The engine's turn ends the running command, where there is one (43_mode_engine.md R162). -/
theorem engineTurn_ends {s : State} (h : s.Inv) : ∃ t, engineTurn s = .next t ∧ t.phase = .idle ∧
    t.inputs = s.inputs ∧ t.Inv ∧ (s.status.reports → t.status.done = true) := by
  rcases engineTurn_cases s with ⟨hp, he⟩ | ⟨i, hp, ho, he⟩ | ⟨hp, ho, -⟩
  · refine ⟨s, he, hp, rfl, h, fun hs => hs.resolve_left fun hb => ?_⟩
    cases hp.symm.trans (h.phaseIsBusy.mpr hb)
  · obtain ⟨t, hexec, hcompleted, hframe⟩ := exec_completes i s
    exact ⟨t, he.trans hexec, hcompleted.idle, hframe.inputs, inv_exec ⟨h, hp, opcode_of_ofOpcode ho⟩ hexec,
      fun _ => hcompleted.done⟩
  · obtain ⟨i, hruns⟩ := h.busyRuns hp
    rw [hruns.latched, ofOpcode_opcode] at ho
    cases ho

/-- A host access answers a next state, or it is the read of an entry without a value (60_exceptions.md R207). -/
theorem hostAccess_next_or_uninit (a : Access) (s : State) :
    (∃ t, s.hostAccess a = .next t) ∨ ∃ addr, s.hostAccess a = .fault (.uninit addr) := by
  rcases hostAccess_cases a s with ⟨-, ha⟩ | ⟨-, -, ha⟩ | ⟨loc, -, -, -, -, -, ha⟩ | ⟨_, _, _, _, -, -, -, ha⟩
  · exact .inl ⟨_, ha⟩
  · exact .inl ⟨_, ha⟩
  · rw [ha]
    rcases hostRead_cases loc s with ⟨v, n, hv⟩ | ⟨k, -, -, hf⟩ | ⟨k, -, -, -, hf⟩
    · exact .inl ⟨_, hv⟩
    · exact .inr ⟨_, hf⟩
    · exact .inr ⟨_, hf⟩
  · exact .inl ⟨_, ha⟩

/-- A step from a sound state answers a next state, or it is the read of an entry without a value. -/
theorem step_next_or_uninit {s : State} (h : s.Inv) :
    (∃ t, step s = .next t) ∨ ∃ addr, step s = .fault (.uninit addr) := by
  obtain ⟨x, -, hs⟩ := step_eq_applyInput s
  rw [hs]
  cases x with
  | access a => exact hostAccess_next_or_uninit a s.takeInput
  | writeRead addr => exact hostAccess_next_or_uninit _ s.takeInput
  | reset asserted => exact .inl ⟨_, rfl⟩
  | engine =>
    obtain ⟨t, ht, -⟩ := engineTurn_ends (inv_takeInput h)
    exact .inl ⟨t, ht⟩

theorem run_succ_of_fault {s : State} {r : Fault} (h : step s = .fault r) (n : Nat) :
    core.run (n + 1) s = .fault r := by
  simp only [Host.Core.run, show core.step s = .fault r from h]

/-- A run of one step more than there are inputs ends with the engine's turn, or at the read of an entry without a
value. -/
theorem run_ends {n : Nat} {s : State} (hn : s.inputs.length = n) (h : s.Inv) :
    (∃ t, core.run (n + 1) s = .next t ∧ t.phase = .idle ∧ t.inputs = [] ∧ t.Inv ∧
      (Input.reset true ∉ s.inputs → s.status.reports → t.status.done = true)) ∨
    ∃ a, core.run (n + 1) s = .fault (.uninit a) := by
  induction n generalizing s with
  | zero =>
    have hi := List.eq_nil_of_length_eq_zero hn
    obtain ⟨t, hturn, hidle, hinputs, hsound, hdone⟩ := engineTurn_ends h
    exact .inl ⟨t, run_one_of_step ((step_nil hi).trans hturn), hidle, hinputs.trans hi, hsound, fun _ => hdone⟩
  | succ n ih =>
    rcases step_next_or_uninit h with ⟨u, hstep⟩ | ⟨addr, hstep⟩
    · rw [run_succ_of_step hstep]
      have hinputs := step_inputs hstep
      have hlen : u.inputs.length = n := by rw [hinputs, List.length_tail, hn, Nat.add_sub_cancel]
      refine (ih hlen (stepKeepsTheInvariant s u h hstep)).imp_left fun ⟨t, hrun, hidle, hempty, hsound, hdone⟩ =>
        ⟨t, hrun, hidle, hempty, hsound, fun hreset hs => ?_⟩
      have hhead : s.inputs.head? ≠ some (.reset true) := fun hhead => hreset (List.mem_of_mem_head? hhead)
      exact hdone (fun hmem => hreset (List.mem_of_mem_tail (hinputs ▸ hmem))) (step_reports hstep hhead hs)
    · exact .inr ⟨addr, run_succ_of_fault hstep _⟩

/-- Settles O55, by induction on the number of inputs left. -/
theorem everyCommandCompletes : Obligations.EveryCommandCompletes := fun _ h => run_ends rfl h

end Sys2Proof.Machine
end

section
/-! PROOFS. Errors and stops (60_exceptions.md R200–R210): the refused command word (O33), the data command over
unwritten input (O25), and the one fault of a step (O54). -/

namespace Sys2Proof.Machine

/-! ### The refused command word -/

theorem checkCommand_of_badCmd {w : Word} (h : decode w = .error .badCmd) (s : State) :
    s.checkCommand w = .error .badCmd := by
  simp only [State.checkCommand, h]

/-- For a data command the checks of LEN follow, the range before the alignment (60_exceptions.md R209). -/
theorem checkCommand_of_isData {w : Word} {i : Instr} (h : decode w = .ok i) (hd : i.isData = true) (s : State) :
    s.checkCommand w = if s.params.bufBytes < s.len.toNat then .error .lenRange
      else if s.len.toNat % 3 ≠ 0 then .error .lenAlign else .ok i := by
  simp only [State.checkCommand, h, hd, if_true]

/-- The words 0 to 5 are those of the data commands (30_encoding.md R83). -/
theorem decode_of_toNat_le_five {w : Word} (h : w.toNat ≤ 5) : ∃ i, decode w = .ok i ∧ i.isData = true := by
  have hdata : ∀ n ≤ 5, ∃ i : Instr, (encode i).toNat = n ∧ i.isData = true := by
    intro n hn
    interval_cases n
    exacts [⟨.ecbEnc, rfl, rfl⟩, ⟨.ecbDec, rfl, rfl⟩, ⟨.cbcEnc, rfl, rfl⟩, ⟨.cbcDec, rfl, rfl⟩, ⟨.ctrEnc, rfl, rfl⟩,
      ⟨.ctrDec, rfl, rfl⟩]
  obtain ⟨i, hword, hd⟩ := hdata w.toNat h
  exact ⟨i, (decodeIsTheInverseOfEncode w i).mpr (BitVec.eq_of_toNat_eq hword.symm), hd⟩

/-- A ready core's step on a command word that acceptance refuses writes STATUS alone (60_exceptions.md R210). -/
theorem step_of_checkCommand_error {w : Word} {s : State} {rest : List Input} {e : CmdError} (h : s.Ready)
    (hi : s.inputs = wr .cmd w :: rest) (he : s.checkCommand w = .error e) :
    step s = .next { s with status := Status.failed e, inputs := rest, rsp := some .written } := by
  have he' : State.checkCommand w { s with inputs := rest } = .error e := he
  rw [step_wr (loc := .cmd) h.released trivial hi,
    hostWrite_of_not_busy (show { s with inputs := rest }.status.busy = false from not_busy_of_ready h), storeAt_cmd,
    State.acceptCommand, he']
  rfl

/-- Settles O33: each case names the first check of acceptance that fails. -/
theorem refusedCommandChangesOnlyStatus : Obligations.RefusedCommandChangesOnlyStatus := by
  intro w s rest code h hi hcase
  rcases hcase with ⟨rfl, hbad⟩ | ⟨rfl, hdata, hrange⟩ | ⟨rfl, hdata, hfits, halign⟩
  · have hdecode : decode w = .error .badCmd := by
      rw [decodeRefusesExactlyTheReservedWords w]
      simp only [List.mem_cons, List.not_mem_nil, or_false] at hbad
      omega
    exact step_of_checkCommand_error h hi (checkCommand_of_badCmd hdecode s)
  · obtain ⟨i, hdecode, hd⟩ := decode_of_toNat_le_five hdata
    exact step_of_checkCommand_error (e := .lenRange) h hi
      (by rw [checkCommand_of_isData hdecode hd, if_pos hrange])
  · obtain ⟨i, hdecode, hd⟩ := decode_of_toNat_le_five hdata
    exact step_of_checkCommand_error (e := .lenAlign) h hi
      (by rw [checkCommand_of_isData hdecode hd, if_neg (Nat.not_lt.mpr hfits), if_pos halign])

/-! ### The data command over unwritten input -/

/-- Settles O25: the result bytes fill `OUT[0..LEN−1]` whatever BLK holds, and acceptance has recorded the gaps. -/
theorem dataCommandCompletesOverUnwrittenInput : Obligations.DataCommandCompletesOverUnwrittenInput := by
  intro i s hd h
  obtain ⟨hlen, hout, hcompleted, hframe, -⟩ := dataBlocks_reported hd h
  refine ⟨_, exec_of_isData hd s, fun k hk => ?_, ((executing_runs h).data hd).missing, hcompleted, hframe⟩
  have hk' : k < (blocksToBytes (dataBlocks i s)).length := hlen.symm ▸ hk
  rw [hout k hk', List.getElem?_eq_getElem hk', Option.isSome_some]

/-! ### The one fault of a step -/

/-- A read that reaches a location is the read of the host notation (30_encoding.md R88). -/
theorem read_eq_of_target {p : Params} {addr : Addr} {n : Nat} {loc : Location}
    (h : Access.target p (.read addr n) = some loc) : Access.read addr n = .read loc.addr 32 := by
  unfold Access.target at h
  split_ifs at h with hw
  obtain ⟨hwidth, hal⟩ := (wellFormed_iff _).mp hw
  obtain ⟨-, haddr⟩ := locate_some h hal
  rw [haddr, ← hwidth]
  rfl

/-- An access faults only as the read of a buffer entry that holds no value (60_exceptions.md R207). -/
theorem hostAccess_fault_cases {a : Access} {s : State} {f : Fault} (h : s.hostAccess a = .fault f) :
    ∃ k, (a = .read (inAddr k) 32 ∧ s.inBuf.read k = none ∧ f = .uninit (inAddr k)) ∨
      (a = .read (outAddr k) 32 ∧ s.outBuf.read k = none ∧ f = .uninit (outAddr k)) := by
  rcases hostAccess_cases a s with ⟨-, ha⟩ | ⟨-, -, ha⟩ | ⟨loc, addr, n, -, ht, rfl, ha⟩ |
    ⟨_, _, _, _, -, -, -, ha⟩ <;> rw [ha] at h
  case inr.inr.inl =>
    rcases hostRead_cases loc s with ⟨v, n, hv⟩ | ⟨k, rfl, hr, hf⟩ | ⟨k, rfl, -, hr, hf⟩
    · rw [hv] at h; cases h
    · rw [hf] at h; cases h; exact ⟨k, .inl ⟨read_eq_of_target ht, hr, rfl⟩⟩
    · rw [hf] at h; cases h; exact ⟨k, .inr ⟨read_eq_of_target ht, hr, rfl⟩⟩
  all_goals cases h

/-- From a sound state the engine never stops (43_mode_engine.md R162). -/
theorem engineTurn_ne_fault {s : State} (h : s.Inv) (f : Fault) : engineTurn s ≠ .fault f := by
  obtain ⟨t, hturn, -⟩ := engineTurn_ends h
  rw [hturn]
  nofun

/-- A step from a sound state faults only on a host access (60_exceptions.md R200). -/
theorem hostAccess_of_step_fault {s : State} {f : Fault} (h : s.Inv) (hf : step s = .fault f) :
    ∃ a rest, s.inputs = .access a :: rest ∧ s.takeInput.hostAccess a = .fault f := by
  cases hi : s.inputs with
  | nil => exact absurd ((step_nil hi).symm.trans hf) (engineTurn_ne_fault h f)
  | cons x rest =>
    rw [step_cons hi, ← State.takeInput_of_cons hi] at hf
    cases x with
    | access a => exact ⟨a, rest, rfl, hf⟩
    | writeRead addr => obtain ⟨_, ⟨hread, -⟩ | ⟨hread, -⟩⟩ := hostAccess_fault_cases hf <;> cases hread
    | reset asserted => cases hf
    | engine => exact absurd hf (engineTurn_ne_fault (inv_takeInput h) f)

/-- Settles O54: the engine's turn always answers, so a stop is a host read that finds its entry without a value. -/
theorem stepStopsOnlyOnAnUnwrittenRead : Obligations.StepStopsOnlyOnAnUnwrittenRead := by
  refine fun s h => ⟨fun r hrefused => ?_, fun f hf => ?_⟩
  · rcases step_next_or_uninit h with ⟨t, hs⟩ | ⟨addr, hs⟩ <;> rw [hs] at hrefused <;> cases hrefused
  · obtain ⟨a, rest, hi, ha⟩ := hostAccess_of_step_fault h hf
    obtain ⟨k, ⟨rfl, hcase⟩ | ⟨rfl, hcase⟩⟩ := hostAccess_fault_cases ha
    · exact ⟨k, rest, .inl ⟨hi, hcase⟩⟩
    · exact ⟨k, rest, .inr ⟨hi, hcase⟩⟩

end Sys2Proof.Machine
end

section
/-! PROOFS. Reset (70_reset_and_hazards.md R230, R232): what it gives, what it suppresses while it is asserted and what
its release gives (O51), and the state after it is sound (O52). -/

namespace Sys2Proof.Machine

/-- The state after reset is the one that asserting and releasing reset gives from itself. -/
theorem releaseReset_assertReset_reset : State.reset.assertReset.releaseReset = State.reset := rfl

/-- Settles O52: asserting reset gives a sound state, and its release keeps it so. -/
theorem invariantHoldsAtReset : Obligations.InvariantHoldsAtReset := by
  rw [Obligations.InvariantHoldsAtReset, ← releaseReset_assertReset_reset]
  exact inv_releaseReset inv_assertReset

/-- A host access while reset is asserted has no effect on the core and no response. -/
theorem hostAccess_of_resetLine {s : State} (hr : s.resetLine = true) (a : Access) :
    s.hostAccess a = .next { s with rsp := none } := by
  simp only [State.hostAccess, hr, if_true]

/-- The engine of an idle core does nothing (60_exceptions.md R219). -/
theorem engineTurn_of_idle {s : State} (hp : s.phase = .idle) : engineTurn s = .next s := by
  simp only [engineTurn, hp]

/-- A sound core is idle while reset is asserted: reset has abandoned the command. -/
theorem phase_of_resetLine {s : State} (h : s.Inv) (hr : s.resetLine = true) : s.phase = .idle := by
  obtain ⟨hstatus, -⟩ := h.inReset hr
  exact phase_of_not_busy h (congrArg Status.busy hstatus)

/-- While reset is asserted, an input other than a change of reset changes at most the response. -/
theorem applyInput_of_resetLine {s : State} {x : Input} (h : s.Inv) (hr : s.resetLine = true)
    (hx : ∀ b, x ≠ .reset b) : ∃ r, applyInput x s = .next { s with rsp := r } := by
  cases x with
  | access a => exact ⟨none, hostAccess_of_resetLine hr a⟩
  | writeRead addr => exact ⟨none, hostAccess_of_resetLine hr _⟩
  | reset b => exact absurd rfl (hx b)
  | engine => exact ⟨s.rsp, engineTurn_of_idle (phase_of_resetLine h hr)⟩

/-- A change of the reset input takes effect in its step, whatever the core does (70_reset_and_hazards.md R231). -/
theorem step_reset {s : State} {asserted : Bool} {rest : List Input} (hi : s.inputs = .reset asserted :: rest) :
    step s = .next (s.takeInput.resetInput asserted) := by
  rw [step_cons hi, ← State.takeInput_of_cons hi]
  rfl

/-- The release of reset gives a core that takes a command (70_reset_and_hazards.md R230). -/
theorem ready_releaseReset {s : State} (h : s.Inv) (hr : s.resetLine = true) : s.releaseReset.Ready where
  sound := inv_releaseReset h
  idle := phase_of_resetLine (s := s) h hr
  released := rfl

/-- Settles O51: the asserted reset gives its values, a sound core then takes no input but reset, and the release is of
an idle core. -/
theorem resetClearsTheCore : Obligations.ResetClearsTheCore := by
  refine fun s rest => ⟨fun hi => ?_, fun h hr => ⟨fun x hi hx => ?_, fun hi => ?_⟩⟩
  · exact ⟨s.takeInput.assertReset, step_reset hi, rfl, rfl, rfl, rfl, rfl, rfl, rfl, rfl, rfl, rfl,
      fun k => ⟨Memory.read_nil k, Memory.read_nil k⟩⟩
  · rw [step_cons hi]
    exact applyInput_of_resetLine (inv_setRecord h rest s.rsp s.lastRead s.draws) hr hx
  · exact ⟨s.takeInput.releaseReset, step_reset hi, ready_releaseReset (inv_takeInput h) hr⟩

end Sys2Proof.Machine
end
